-- ==== Sys2Proof/Word.lean ====
section
/-!
DEFINITION. The word types of the machine: a byte, a CPU address, a PPU address and a scroll address.
-/

namespace Sys2Proof

/-- The unit of every CPU bus access (R9, R104). -/
abbrev Byte := BitVec 8

/-- A CPU address: 16 bits, arithmetic wraps modulo 65536 (R12, R90). -/
abbrev Addr := BitVec 16

/-- A PPU address: 14 bits, taken modulo 0x4000 (R451). -/
abbrev PAddr := BitVec 14

/-- The layout of the scroll registers v and t: 15 bits (R455). -/
abbrev VAddr := BitVec 15

/-- A palette entry and a colour index: 6 bits (R452, R532). -/
abbrev Colour := BitVec 6

end Sys2Proof
end

