-- ==== Sys2Proof/Config.lean ====
section
/-!
DEFINITION. What is fixed for one machine: the open parameters of R11.
`Params` holds those for which the spec gives a set of values and a default (DESIGN CHOICE, log 2); the constants at the
end have no body, so no proof can see what they are (DESIGN CHOICE, logs 3, 4, 5, 11).
-/

namespace Sys2Proof

/-- `OPEN_BUS_DECAY_UNIT`: what the open-bus countdown counts (R474, D22). -/
inductive DecayUnit where
  | cpuCycle
  | dot
deriving DecidableEq, Repr

/-- `SPRITE0_NO_HIT_X`: the pixel column at which a sprite-zero hit is never set (R530, D25). -/
inductive NoHitColumn where
  | x254
  | x255
deriving DecidableEq, Repr

/-- The pixel column a `NoHitColumn` names. -/
def NoHitColumn.column : NoHitColumn → Nat
  | .x254 => 254
  | .x255 => 255

/-- `HIGH_SWITCH_FIXED_BANK`: which bank the high-switch board fixes at 0x8000 (R564, D29). -/
inductive FixedBank where
  | first
  | last
deriving DecidableEq, Repr

/-- The open parameters that have a default in the spec (R11). No step changes them. -/
structure Params where
  /-- `OPEN_BUS_DECAY_UNIT` (R474). -/
  decayUnit : DecayUnit
  /-- `DMA_PARITY_PHASE`, 0 or 1 (R590). -/
  dmaParityPhase : Fin 2
  /-- `PPU_WARMUP_CYCLES` (R464, R623). -/
  ppuWarmupCycles : Nat
  /-- `SPRITE0_NO_HIT_X` (R530). -/
  sprite0NoHitX : NoHitColumn
  /-- `HIGH_SWITCH_FIXED_BANK` (R564). -/
  highSwitchFixedBank : FixedBank
  /-- `MMC1_IGNORE_CONSECUTIVE` (R567). -/
  mmc1IgnoreConsecutive : Bool
  /-- `BUS_CONFLICTS` (R576). -/
  busConflicts : Bool
deriving DecidableEq, Repr

/-- Every parameter at the default its rule gives. -/
def Params.default : Params where
  decayUnit := .cpuCycle
  dmaParityPhase := 0
  ppuWarmupCycles := 0
  sprite0NoHitX := .x255
  highSwitchFixedBank := .last
  mmc1IgnoreConsecutive := true
  busConflicts := false

/-- One access that the audio unit sees, with the clock value it is tagged with (R595-R597, R641). -/
inductive AudioEvent where
  /-- A forwarded register write (R595). -/
  | write (a : Addr) (v : Byte) (clock : Nat)
  /-- A read of 0x4015 (R596). -/
  | read (a : Addr) (clock : Nat)
  /-- The host's `end_frame`, which restarts the clock (R641). -/
  | rebase (clock : Nat)
deriving DecidableEq, Repr

/-- `CPU_OPEN_BUS`: the value of a read that no device answers (R94, R95, D9; DESIGN CHOICE, log 3). -/
opaque Config.cpuOpenBus : Byte

/-- `CONTROLLER_HIGH_BITS`: bits 7-1 of a controller read; its bit 0 is not used (R582, D10; DESIGN CHOICE, log 4). -/
opaque Config.controllerHighBits : Byte

/-- `HIGH_SWITCH_MAPPER_ID` (R560, D29; DESIGN CHOICE, log 11). -/
opaque Config.highSwitchMapperId : Nat

/-- `AudioOracle.read`: the byte the audio unit answers to a read of 0x4015, after the given events, the
newest first, the read itself among them (R596, R597; DESIGN CHOICE, log 5). -/
opaque Config.audioRead : List AudioEvent → Byte

/-- `AudioOracle.next_irq_time` after the given events, the newest first; `none` is infinity (R597; DESIGN CHOICE, log 5). -/
opaque Config.audioNextIrq : List AudioEvent → Option Nat

end Sys2Proof
end

