-- ==== Sys2Proof/Syntax.lean ====
section
/-!
DEFINITION. The instructions: one constructor per official row of spec/opcode_table.json (R147), and one
constructor for the rows of the mnemonic "(unassigned)" (R150), which carries the byte.
An instruction is what the opcode byte alone determines, its mnemonic and addressing mode (R140, R152); its operand
bytes are read by the bus cycles of the mode (R180, R183-R203; DESIGN CHOICE, log 1).
-/

namespace Sys2Proof

/-- The instructions of the opcode map (R147, R150). -/
inductive Instr where
  /-- LDA immediate, A9 (R240). -/
  | ldaImm
  /-- LDA zero page, A5 (R240). -/
  | ldaZp
  /-- LDA zero page,X, B5 (R240). -/
  | ldaZpx
  /-- LDA absolute, AD (R240). -/
  | ldaAbs
  /-- LDA absolute,X, BD (R240). -/
  | ldaAbsx
  /-- LDA absolute,Y, B9 (R240). -/
  | ldaAbsy
  /-- LDA (zero page,X), A1 (R240). -/
  | ldaIndx
  /-- LDA (zero page),Y, B1 (R240). -/
  | ldaIndy
  /-- LDX immediate, A2 (R241). -/
  | ldxImm
  /-- LDX zero page, A6 (R241). -/
  | ldxZp
  /-- LDX zero page,Y, B6 (R241). -/
  | ldxZpy
  /-- LDX absolute, AE (R241). -/
  | ldxAbs
  /-- LDX absolute,Y, BE (R241). -/
  | ldxAbsy
  /-- LDY immediate, A0 (R242). -/
  | ldyImm
  /-- LDY zero page, A4 (R242). -/
  | ldyZp
  /-- LDY zero page,X, B4 (R242). -/
  | ldyZpx
  /-- LDY absolute, AC (R242). -/
  | ldyAbs
  /-- LDY absolute,X, BC (R242). -/
  | ldyAbsx
  /-- STA zero page, 85 (R243). -/
  | staZp
  /-- STA zero page,X, 95 (R243). -/
  | staZpx
  /-- STA absolute, 8D (R243). -/
  | staAbs
  /-- STA absolute,X, 9D (R243). -/
  | staAbsx
  /-- STA absolute,Y, 99 (R243). -/
  | staAbsy
  /-- STA (zero page,X), 81 (R243). -/
  | staIndx
  /-- STA (zero page),Y, 91 (R243). -/
  | staIndy
  /-- STX zero page, 86 (R244). -/
  | stxZp
  /-- STX zero page,Y, 96 (R244). -/
  | stxZpy
  /-- STX absolute, 8E (R244). -/
  | stxAbs
  /-- STY zero page, 84 (R245). -/
  | styZp
  /-- STY zero page,X, 94 (R245). -/
  | styZpx
  /-- STY absolute, 8C (R245). -/
  | styAbs
  /-- TAX implied, AA (R246). -/
  | tax
  /-- TAY implied, A8 (R247). -/
  | tay
  /-- TXA implied, 8A (R248). -/
  | txa
  /-- TYA implied, 98 (R249). -/
  | tya
  /-- TSX implied, BA (R250). -/
  | tsx
  /-- TXS implied, 9A (R251). -/
  | txs
  /-- ADC immediate, 69 (R271). -/
  | adcImm
  /-- ADC zero page, 65 (R271). -/
  | adcZp
  /-- ADC zero page,X, 75 (R271). -/
  | adcZpx
  /-- ADC absolute, 6D (R271). -/
  | adcAbs
  /-- ADC absolute,X, 7D (R271). -/
  | adcAbsx
  /-- ADC absolute,Y, 79 (R271). -/
  | adcAbsy
  /-- ADC (zero page,X), 61 (R271). -/
  | adcIndx
  /-- ADC (zero page),Y, 71 (R271). -/
  | adcIndy
  /-- SBC immediate, E9 (R272). -/
  | sbcImm
  /-- SBC zero page, E5 (R272). -/
  | sbcZp
  /-- SBC zero page,X, F5 (R272). -/
  | sbcZpx
  /-- SBC absolute, ED (R272). -/
  | sbcAbs
  /-- SBC absolute,X, FD (R272). -/
  | sbcAbsx
  /-- SBC absolute,Y, F9 (R272). -/
  | sbcAbsy
  /-- SBC (zero page,X), E1 (R272). -/
  | sbcIndx
  /-- SBC (zero page),Y, F1 (R272). -/
  | sbcIndy
  /-- AND immediate, 29 (R273). -/
  | andImm
  /-- AND zero page, 25 (R273). -/
  | andZp
  /-- AND zero page,X, 35 (R273). -/
  | andZpx
  /-- AND absolute, 2D (R273). -/
  | andAbs
  /-- AND absolute,X, 3D (R273). -/
  | andAbsx
  /-- AND absolute,Y, 39 (R273). -/
  | andAbsy
  /-- AND (zero page,X), 21 (R273). -/
  | andIndx
  /-- AND (zero page),Y, 31 (R273). -/
  | andIndy
  /-- ORA immediate, 09 (R274). -/
  | oraImm
  /-- ORA zero page, 05 (R274). -/
  | oraZp
  /-- ORA zero page,X, 15 (R274). -/
  | oraZpx
  /-- ORA absolute, 0D (R274). -/
  | oraAbs
  /-- ORA absolute,X, 1D (R274). -/
  | oraAbsx
  /-- ORA absolute,Y, 19 (R274). -/
  | oraAbsy
  /-- ORA (zero page,X), 01 (R274). -/
  | oraIndx
  /-- ORA (zero page),Y, 11 (R274). -/
  | oraIndy
  /-- EOR immediate, 49 (R275). -/
  | eorImm
  /-- EOR zero page, 45 (R275). -/
  | eorZp
  /-- EOR zero page,X, 55 (R275). -/
  | eorZpx
  /-- EOR absolute, 4D (R275). -/
  | eorAbs
  /-- EOR absolute,X, 5D (R275). -/
  | eorAbsx
  /-- EOR absolute,Y, 59 (R275). -/
  | eorAbsy
  /-- EOR (zero page,X), 41 (R275). -/
  | eorIndx
  /-- EOR (zero page),Y, 51 (R275). -/
  | eorIndy
  /-- CMP immediate, C9 (R276). -/
  | cmpImm
  /-- CMP zero page, C5 (R276). -/
  | cmpZp
  /-- CMP zero page,X, D5 (R276). -/
  | cmpZpx
  /-- CMP absolute, CD (R276). -/
  | cmpAbs
  /-- CMP absolute,X, DD (R276). -/
  | cmpAbsx
  /-- CMP absolute,Y, D9 (R276). -/
  | cmpAbsy
  /-- CMP (zero page,X), C1 (R276). -/
  | cmpIndx
  /-- CMP (zero page),Y, D1 (R276). -/
  | cmpIndy
  /-- CPX immediate, E0 (R277). -/
  | cpxImm
  /-- CPX zero page, E4 (R277). -/
  | cpxZp
  /-- CPX absolute, EC (R277). -/
  | cpxAbs
  /-- CPY immediate, C0 (R278). -/
  | cpyImm
  /-- CPY zero page, C4 (R278). -/
  | cpyZp
  /-- CPY absolute, CC (R278). -/
  | cpyAbs
  /-- BIT zero page, 24 (R279). -/
  | bitZp
  /-- BIT absolute, 2C (R279). -/
  | bitAbs
  /-- INC zero page, E6 (R280). -/
  | incZp
  /-- INC zero page,X, F6 (R280). -/
  | incZpx
  /-- INC absolute, EE (R280). -/
  | incAbs
  /-- INC absolute,X, FE (R280). -/
  | incAbsx
  /-- DEC zero page, C6 (R281). -/
  | decZp
  /-- DEC zero page,X, D6 (R281). -/
  | decZpx
  /-- DEC absolute, CE (R281). -/
  | decAbs
  /-- DEC absolute,X, DE (R281). -/
  | decAbsx
  /-- INX implied, E8 (R282). -/
  | inx
  /-- INY implied, C8 (R283). -/
  | iny
  /-- DEX implied, CA (R284). -/
  | dex
  /-- DEY implied, 88 (R285). -/
  | dey
  /-- ASL accumulator, 0A (R310). -/
  | aslAcc
  /-- ASL zero page, 06 (R310). -/
  | aslZp
  /-- ASL zero page,X, 16 (R310). -/
  | aslZpx
  /-- ASL absolute, 0E (R310). -/
  | aslAbs
  /-- ASL absolute,X, 1E (R310). -/
  | aslAbsx
  /-- LSR accumulator, 4A (R311). -/
  | lsrAcc
  /-- LSR zero page, 46 (R311). -/
  | lsrZp
  /-- LSR zero page,X, 56 (R311). -/
  | lsrZpx
  /-- LSR absolute, 4E (R311). -/
  | lsrAbs
  /-- LSR absolute,X, 5E (R311). -/
  | lsrAbsx
  /-- ROL accumulator, 2A (R312). -/
  | rolAcc
  /-- ROL zero page, 26 (R312). -/
  | rolZp
  /-- ROL zero page,X, 36 (R312). -/
  | rolZpx
  /-- ROL absolute, 2E (R312). -/
  | rolAbs
  /-- ROL absolute,X, 3E (R312). -/
  | rolAbsx
  /-- ROR accumulator, 6A (R313). -/
  | rorAcc
  /-- ROR zero page, 66 (R313). -/
  | rorZp
  /-- ROR zero page,X, 76 (R313). -/
  | rorZpx
  /-- ROR absolute, 6E (R313). -/
  | rorAbs
  /-- ROR absolute,X, 7E (R313). -/
  | rorAbsx
  /-- JMP absolute, 4C (R330). -/
  | jmpAbs
  /-- JMP indirect, 6C (R330). -/
  | jmpInd
  /-- JSR absolute, 20 (R331). -/
  | jsr
  /-- RTS implied, 60 (R332). -/
  | rts
  /-- BPL relative, 10 (R334). -/
  | bpl
  /-- BMI relative, 30 (R335). -/
  | bmi
  /-- BVC relative, 50 (R336). -/
  | bvc
  /-- BVS relative, 70 (R337). -/
  | bvs
  /-- BCC relative, 90 (R338). -/
  | bcc
  /-- BCS relative, B0 (R339). -/
  | bcs
  /-- BNE relative, D0 (R340). -/
  | bne
  /-- BEQ relative, F0 (R341). -/
  | beq
  /-- PHA implied, 48 (R360). -/
  | pha
  /-- PHP implied, 08 (R361). -/
  | php
  /-- PLA implied, 68 (R362). -/
  | pla
  /-- PLP implied, 28 (R363). -/
  | plp
  /-- CLC implied, 18 (R364). -/
  | clc
  /-- SEC implied, 38 (R365). -/
  | sec
  /-- CLI implied, 58 (R366). -/
  | cli
  /-- SEI implied, 78 (R367). -/
  | sei
  /-- CLD implied, D8 (R368). -/
  | cld
  /-- SED implied, F8 (R369). -/
  | sed
  /-- CLV implied, B8 (R370). -/
  | clv
  /-- NOP implied, EA (R371). -/
  | nop
  /-- BRK implied, 00 (R372). -/
  | brk
  /-- RTI implied, 40 (R373). -/
  | rti
  /-- A byte outside the official set (R149, R150, R395). -/
  | unassigned (op : Byte)
deriving DecidableEq, Repr

end Sys2Proof
end

