-- ==== Sys2Proof/WellFormed.lean ====
section
/-!
DEFINITION. Which terms of `Instr` are instructions: an `unassigned` byte is one of the 105 of R150.
-/

namespace Sys2Proof

/-- The 105 unassigned opcode bytes, in the groups of R150. -/
def unassignedBytes : List Byte :=
  [0x02, 0x12, 0x22, 0x32, 0x42, 0x52, 0x62, 0x72, 0x92, 0xB2, 0xD2, 0xF2] ++
  [0x1A, 0x3A, 0x5A, 0x7A, 0xDA, 0xFA] ++
  [0x80, 0x82, 0x89, 0xC2, 0xE2] ++
  [0x04, 0x44, 0x64] ++
  [0x14, 0x34, 0x54, 0x74, 0xD4, 0xF4] ++
  [0x0C] ++
  [0x1C, 0x3C, 0x5C, 0x7C, 0xDC, 0xFC] ++
  [0x03, 0x07, 0x0F, 0x13, 0x17, 0x1B, 0x1F] ++
  [0x23, 0x27, 0x2F, 0x33, 0x37, 0x3B, 0x3F] ++
  [0x43, 0x47, 0x4F, 0x53, 0x57, 0x5B, 0x5F] ++
  [0x63, 0x67, 0x6F, 0x73, 0x77, 0x7B, 0x7F] ++
  [0x83, 0x87, 0x8F, 0x97] ++
  [0xA3, 0xA7, 0xAF, 0xB3, 0xB7, 0xBF] ++
  [0xC3, 0xC7, 0xCF, 0xD3, 0xD7, 0xDB, 0xDF] ++
  [0xE3, 0xE7, 0xEF, 0xF3, 0xF7, 0xFB, 0xFF] ++
  [0x0B, 0x2B] ++
  [0x4B] ++
  [0x6B] ++
  [0x8B] ++
  [0xAB] ++
  [0xCB] ++
  [0xEB] ++
  [0x93, 0x9F] ++
  [0x9B] ++
  [0x9C] ++
  [0x9E] ++
  [0xBB]

/-- An instruction as R152 has it: an official (mnemonic, mode), or a byte outside the official set. -/
def Instr.wf : Instr → Bool
  | .unassigned op => unassignedBytes.contains op
  | .ldaImm | .ldaZp | .ldaZpx | .ldaAbs | .ldaAbsx | .ldaAbsy | .ldaIndx | .ldaIndy
  | .ldxImm | .ldxZp | .ldxZpy | .ldxAbs | .ldxAbsy | .ldyImm | .ldyZp | .ldyZpx
  | .ldyAbs | .ldyAbsx | .staZp | .staZpx | .staAbs | .staAbsx | .staAbsy | .staIndx
  | .staIndy | .stxZp | .stxZpy | .stxAbs | .styZp | .styZpx | .styAbs | .tax
  | .tay | .txa | .tya | .tsx | .txs | .adcImm | .adcZp | .adcZpx
  | .adcAbs | .adcAbsx | .adcAbsy | .adcIndx | .adcIndy | .sbcImm | .sbcZp | .sbcZpx
  | .sbcAbs | .sbcAbsx | .sbcAbsy | .sbcIndx | .sbcIndy | .andImm | .andZp | .andZpx
  | .andAbs | .andAbsx | .andAbsy | .andIndx | .andIndy | .oraImm | .oraZp | .oraZpx
  | .oraAbs | .oraAbsx | .oraAbsy | .oraIndx | .oraIndy | .eorImm | .eorZp | .eorZpx
  | .eorAbs | .eorAbsx | .eorAbsy | .eorIndx | .eorIndy | .cmpImm | .cmpZp | .cmpZpx
  | .cmpAbs | .cmpAbsx | .cmpAbsy | .cmpIndx | .cmpIndy | .cpxImm | .cpxZp | .cpxAbs
  | .cpyImm | .cpyZp | .cpyAbs | .bitZp | .bitAbs | .incZp | .incZpx | .incAbs
  | .incAbsx | .decZp | .decZpx | .decAbs | .decAbsx | .inx | .iny | .dex
  | .dey | .aslAcc | .aslZp | .aslZpx | .aslAbs | .aslAbsx | .lsrAcc | .lsrZp
  | .lsrZpx | .lsrAbs | .lsrAbsx | .rolAcc | .rolZp | .rolZpx | .rolAbs | .rolAbsx
  | .rorAcc | .rorZp | .rorZpx | .rorAbs | .rorAbsx | .jmpAbs | .jmpInd | .jsr
  | .rts | .bpl | .bmi | .bvc | .bvs | .bcc | .bcs | .bne
  | .beq | .pha | .php | .pla | .plp | .clc | .sec | .cli
  | .sei | .cld | .sed | .clv | .nop | .brk | .rti => true

end Sys2Proof
end

