-- ==== Sys2Proof/Decode.lean ====
section
/-!
DEFINITION. The decoder, total on any bytes, and after it the encoder (R140, R141, R147, R148, R152).
The opcode byte alone determines the instruction; operand bytes are never decoded (R152).
-/

namespace Sys2Proof

/-- The opcode map of R147: row = high nibble, column = low nibble, `none` = unassigned. -/
def opcodeMap : List (List (Option Instr)) := [
  [some .brk, some .oraIndx, none, none, none, some .oraZp, some .aslZp, none,
   some .php, some .oraImm, some .aslAcc, none, none, some .oraAbs, some .aslAbs, none],
  [some .bpl, some .oraIndy, none, none, none, some .oraZpx, some .aslZpx, none,
   some .clc, some .oraAbsy, none, none, none, some .oraAbsx, some .aslAbsx, none],
  [some .jsr, some .andIndx, none, none, some .bitZp, some .andZp, some .rolZp, none,
   some .plp, some .andImm, some .rolAcc, none, some .bitAbs, some .andAbs, some .rolAbs, none],
  [some .bmi, some .andIndy, none, none, none, some .andZpx, some .rolZpx, none,
   some .sec, some .andAbsy, none, none, none, some .andAbsx, some .rolAbsx, none],
  [some .rti, some .eorIndx, none, none, none, some .eorZp, some .lsrZp, none,
   some .pha, some .eorImm, some .lsrAcc, none, some .jmpAbs, some .eorAbs, some .lsrAbs, none],
  [some .bvc, some .eorIndy, none, none, none, some .eorZpx, some .lsrZpx, none,
   some .cli, some .eorAbsy, none, none, none, some .eorAbsx, some .lsrAbsx, none],
  [some .rts, some .adcIndx, none, none, none, some .adcZp, some .rorZp, none,
   some .pla, some .adcImm, some .rorAcc, none, some .jmpInd, some .adcAbs, some .rorAbs, none],
  [some .bvs, some .adcIndy, none, none, none, some .adcZpx, some .rorZpx, none,
   some .sei, some .adcAbsy, none, none, none, some .adcAbsx, some .rorAbsx, none],
  [none, some .staIndx, none, none, some .styZp, some .staZp, some .stxZp, none,
   some .dey, none, some .txa, none, some .styAbs, some .staAbs, some .stxAbs, none],
  [some .bcc, some .staIndy, none, none, some .styZpx, some .staZpx, some .stxZpy, none,
   some .tya, some .staAbsy, some .txs, none, none, some .staAbsx, none, none],
  [some .ldyImm, some .ldaIndx, some .ldxImm, none, some .ldyZp, some .ldaZp, some .ldxZp, none,
   some .tay, some .ldaImm, some .tax, none, some .ldyAbs, some .ldaAbs, some .ldxAbs, none],
  [some .bcs, some .ldaIndy, none, none, some .ldyZpx, some .ldaZpx, some .ldxZpy, none,
   some .clv, some .ldaAbsy, some .tsx, none, some .ldyAbsx, some .ldaAbsx, some .ldxAbsy, none],
  [some .cpyImm, some .cmpIndx, none, none, some .cpyZp, some .cmpZp, some .decZp, none,
   some .iny, some .cmpImm, some .dex, none, some .cpyAbs, some .cmpAbs, some .decAbs, none],
  [some .bne, some .cmpIndy, none, none, none, some .cmpZpx, some .decZpx, none,
   some .cld, some .cmpAbsy, none, none, none, some .cmpAbsx, some .decAbsx, none],
  [some .cpxImm, some .sbcIndx, none, none, some .cpxZp, some .sbcZp, some .incZp, none,
   some .inx, some .sbcImm, some .nop, none, some .cpxAbs, some .sbcAbs, some .incAbs, none],
  [some .beq, some .sbcIndy, none, none, none, some .sbcZpx, some .incZpx, none,
   some .sed, some .sbcAbsy, none, none, none, some .sbcAbsx, some .incAbsx, none]]

/-- The instruction an opcode byte is: an official one of R147 or the unassigned byte by its value (R152). -/
def decodeOpcode (op : Byte) : Instr :=
  match (opcodeMap.getD (op.toNat / 16) []).getD (op.toNat % 16) none with
  | some i => i
  | none => .unassigned op

/-- The addressing modes (R141). -/
inductive Mode where
  | imp
  | acc
  | imm
  | zp
  | zpx
  | zpy
  | rel
  | abs
  | absx
  | absy
  | ind
  | indx
  | indy
deriving DecidableEq, Repr

/-- The length in bytes of an instruction of a mode (R148). -/
def Mode.length : Mode → Nat
  | .imp | .acc => 1
  | .imm | .zp | .zpx | .zpy | .rel | .indx | .indy => 2
  | .abs | .absx | .absy | .ind => 3

/-- The addressing mode of an official instruction (R147); an unassigned byte has none (R150). -/
def Instr.mode : Instr → Option Mode
  | .unassigned _ => none
  | .tax | .tay | .txa | .tya | .tsx | .txs | .inx | .iny | .dex | .dey
  | .rts | .pha | .php | .pla | .plp | .clc | .sec | .cli | .sei | .cld
  | .sed | .clv | .nop | .brk | .rti => some .imp
  | .aslAcc | .lsrAcc | .rolAcc | .rorAcc => some .acc
  | .ldaImm | .ldxImm | .ldyImm | .adcImm | .sbcImm | .andImm | .oraImm | .eorImm | .cmpImm | .cpxImm
  | .cpyImm => some .imm
  | .ldaZp | .ldxZp | .ldyZp | .staZp | .stxZp | .styZp | .adcZp | .sbcZp | .andZp | .oraZp
  | .eorZp | .cmpZp | .cpxZp | .cpyZp | .bitZp | .incZp | .decZp | .aslZp | .lsrZp | .rolZp
  | .rorZp => some .zp
  | .ldaZpx | .ldyZpx | .staZpx | .styZpx | .adcZpx | .sbcZpx | .andZpx | .oraZpx | .eorZpx | .cmpZpx
  | .incZpx | .decZpx | .aslZpx | .lsrZpx | .rolZpx | .rorZpx => some .zpx
  | .ldxZpy | .stxZpy => some .zpy
  | .ldaAbs | .ldxAbs | .ldyAbs | .staAbs | .stxAbs | .styAbs | .adcAbs | .sbcAbs | .andAbs | .oraAbs
  | .eorAbs | .cmpAbs | .cpxAbs | .cpyAbs | .bitAbs | .incAbs | .decAbs | .aslAbs | .lsrAbs | .rolAbs
  | .rorAbs | .jmpAbs | .jsr => some .abs
  | .ldaAbsx | .ldyAbsx | .staAbsx | .adcAbsx | .sbcAbsx | .andAbsx | .oraAbsx | .eorAbsx | .cmpAbsx | .incAbsx
  | .decAbsx | .aslAbsx | .lsrAbsx | .rolAbsx | .rorAbsx => some .absx
  | .ldaAbsy | .ldxAbsy | .staAbsy | .adcAbsy | .sbcAbsy | .andAbsy | .oraAbsy | .eorAbsy | .cmpAbsy => some .absy
  | .jmpInd => some .ind
  | .ldaIndx | .staIndx | .adcIndx | .sbcIndx | .andIndx | .oraIndx | .eorIndx | .cmpIndx => some .indx
  | .ldaIndy | .staIndy | .adcIndy | .sbcIndy | .andIndy | .oraIndy | .eorIndy | .cmpIndy => some .indy
  | .bpl | .bmi | .bvc | .bvs | .bcc | .bcs | .bne | .beq => some .rel

/-- How many operand bytes follow the opcode byte (R148). Of an unassigned byte nothing more is read (R395). -/
def Instr.operandLength (i : Instr) : Nat :=
  match i.mode with
  | some m => m.length - 1
  | none => 0

/-- Why a sequence of bytes is no instruction. -/
inductive DecodeError where
  /-- There is no byte. -/
  | empty
  /-- Operand bytes of the instruction are missing. -/
  | truncated (i : Instr)
deriving DecidableEq, Repr

/-- An instruction read from bytes: what it is, its operand bytes, low byte first, and the bytes after it. -/
structure Decoded where
  instr : Instr
  operand : List Byte
  rest : List Byte
deriving DecidableEq, Repr

/-- The first instruction of a sequence of bytes (R140, R148). -/
def decode : List Byte → Except DecodeError Decoded
  | [] => .error .empty
  | op :: bs =>
    let i := decodeOpcode op
    if bs.length < i.operandLength then .error (.truncated i)
    else .ok { instr := i, operand := bs.take i.operandLength, rest := bs.drop i.operandLength }

/-- The opcode byte of an instruction, from the "Encoding" lines of its rule in 41-45 (R240-R373). -/
def Instr.opcode : Instr → Byte
  | .unassigned op => op
  | .ldaImm => 0xA9
  | .ldaZp => 0xA5
  | .ldaZpx => 0xB5
  | .ldaAbs => 0xAD
  | .ldaAbsx => 0xBD
  | .ldaAbsy => 0xB9
  | .ldaIndx => 0xA1
  | .ldaIndy => 0xB1
  | .ldxImm => 0xA2
  | .ldxZp => 0xA6
  | .ldxZpy => 0xB6
  | .ldxAbs => 0xAE
  | .ldxAbsy => 0xBE
  | .ldyImm => 0xA0
  | .ldyZp => 0xA4
  | .ldyZpx => 0xB4
  | .ldyAbs => 0xAC
  | .ldyAbsx => 0xBC
  | .staZp => 0x85
  | .staZpx => 0x95
  | .staAbs => 0x8D
  | .staAbsx => 0x9D
  | .staAbsy => 0x99
  | .staIndx => 0x81
  | .staIndy => 0x91
  | .stxZp => 0x86
  | .stxZpy => 0x96
  | .stxAbs => 0x8E
  | .styZp => 0x84
  | .styZpx => 0x94
  | .styAbs => 0x8C
  | .tax => 0xAA
  | .tay => 0xA8
  | .txa => 0x8A
  | .tya => 0x98
  | .tsx => 0xBA
  | .txs => 0x9A
  | .adcImm => 0x69
  | .adcZp => 0x65
  | .adcZpx => 0x75
  | .adcAbs => 0x6D
  | .adcAbsx => 0x7D
  | .adcAbsy => 0x79
  | .adcIndx => 0x61
  | .adcIndy => 0x71
  | .sbcImm => 0xE9
  | .sbcZp => 0xE5
  | .sbcZpx => 0xF5
  | .sbcAbs => 0xED
  | .sbcAbsx => 0xFD
  | .sbcAbsy => 0xF9
  | .sbcIndx => 0xE1
  | .sbcIndy => 0xF1
  | .andImm => 0x29
  | .andZp => 0x25
  | .andZpx => 0x35
  | .andAbs => 0x2D
  | .andAbsx => 0x3D
  | .andAbsy => 0x39
  | .andIndx => 0x21
  | .andIndy => 0x31
  | .oraImm => 0x09
  | .oraZp => 0x05
  | .oraZpx => 0x15
  | .oraAbs => 0x0D
  | .oraAbsx => 0x1D
  | .oraAbsy => 0x19
  | .oraIndx => 0x01
  | .oraIndy => 0x11
  | .eorImm => 0x49
  | .eorZp => 0x45
  | .eorZpx => 0x55
  | .eorAbs => 0x4D
  | .eorAbsx => 0x5D
  | .eorAbsy => 0x59
  | .eorIndx => 0x41
  | .eorIndy => 0x51
  | .cmpImm => 0xC9
  | .cmpZp => 0xC5
  | .cmpZpx => 0xD5
  | .cmpAbs => 0xCD
  | .cmpAbsx => 0xDD
  | .cmpAbsy => 0xD9
  | .cmpIndx => 0xC1
  | .cmpIndy => 0xD1
  | .cpxImm => 0xE0
  | .cpxZp => 0xE4
  | .cpxAbs => 0xEC
  | .cpyImm => 0xC0
  | .cpyZp => 0xC4
  | .cpyAbs => 0xCC
  | .bitZp => 0x24
  | .bitAbs => 0x2C
  | .incZp => 0xE6
  | .incZpx => 0xF6
  | .incAbs => 0xEE
  | .incAbsx => 0xFE
  | .decZp => 0xC6
  | .decZpx => 0xD6
  | .decAbs => 0xCE
  | .decAbsx => 0xDE
  | .inx => 0xE8
  | .iny => 0xC8
  | .dex => 0xCA
  | .dey => 0x88
  | .aslAcc => 0x0A
  | .aslZp => 0x06
  | .aslZpx => 0x16
  | .aslAbs => 0x0E
  | .aslAbsx => 0x1E
  | .lsrAcc => 0x4A
  | .lsrZp => 0x46
  | .lsrZpx => 0x56
  | .lsrAbs => 0x4E
  | .lsrAbsx => 0x5E
  | .rolAcc => 0x2A
  | .rolZp => 0x26
  | .rolZpx => 0x36
  | .rolAbs => 0x2E
  | .rolAbsx => 0x3E
  | .rorAcc => 0x6A
  | .rorZp => 0x66
  | .rorZpx => 0x76
  | .rorAbs => 0x6E
  | .rorAbsx => 0x7E
  | .jmpAbs => 0x4C
  | .jmpInd => 0x6C
  | .jsr => 0x20
  | .rts => 0x60
  | .bpl => 0x10
  | .bmi => 0x30
  | .bvc => 0x50
  | .bvs => 0x70
  | .bcc => 0x90
  | .bcs => 0xB0
  | .bne => 0xD0
  | .beq => 0xF0
  | .pha => 0x48
  | .php => 0x08
  | .pla => 0x68
  | .plp => 0x28
  | .clc => 0x18
  | .sec => 0x38
  | .cli => 0x58
  | .sei => 0x78
  | .cld => 0xD8
  | .sed => 0xF8
  | .clv => 0xB8
  | .nop => 0xEA
  | .brk => 0x00
  | .rti => 0x40

/-- The bytes of an instruction with its operand bytes, in ascending address order (R103, R140). -/
def encode (i : Instr) (operand : List Byte) : List Byte :=
  i.opcode :: operand

/-- The first `n` bytes of a number, its least significant byte first. -/
def bytesOf : Nat → Nat → List Byte
  | 0, _ => []
  | n + 1, w => BitVec.ofNat 8 w :: bytesOf n (w / 256)

/-- The longest instruction is an opcode byte and two operand bytes (R140). -/
def maxLength : Nat := 3

/-- The bytes of an instruction that the opcode table gives as the number `w` of `nbits` bits: bit 0 is the least
significant bit of the first byte, and the bytes above `nbits` are zero. -/
def tableBytes (nbits w : Nat) : List Byte :=
  bytesOf maxLength (w % 2 ^ nbits)

/-- The instruction the decoder reads from the table's word. -/
def decodeTableWord (nbits w : Nat) : Option Instr :=
  match decode (tableBytes nbits w) with
  | .ok d => some d.instr
  | .error _ => none

end Sys2Proof
end

