-- ==== Sys2Proof/Machine/Bits.lean ====
section
/-!
DEFINITION. Bit fields, byte order and extension (R12), and the fields of the scroll registers (R455).
-/

namespace Sys2Proof.Machine

/-- `{hi, lo}`: the 16-bit value of two bytes (R12, R103). -/
def word (hi lo : Byte) : Addr := hi ++ lo

/-- Bits 15-8 of an address. -/
def hi8 (a : Addr) : Byte := a.extractLsb' 8 8

/-- Bits 7-0 of an address. -/
def lo8 (a : Addr) : Byte := a.extractLsb' 0 8

/-- `zext_16` of a byte (R12). -/
def zext16 (b : Byte) : Addr := b.setWidth 16

/-- `sext_16` of a byte (R12). -/
def sext16 (b : Byte) : Addr := b.signExtend 16

/-- `v[k]` (R12). -/
def bit {n : Nat} (v : BitVec n) (k : Nat) : Bool := v.getLsbD k

/-- `reverse8(b)[i] = b[7 - i]` (R525). -/
def reverse8 (b : Byte) : Byte := b.reverse

/-- Fine Y, bits 14-12 of v or t (R455). -/
def fineY (v : VAddr) : BitVec 3 := v.extractLsb' 12 3

/-- The logical nametable, bits 11-10 of v or t (R455). -/
def nametable (v : VAddr) : BitVec 2 := v.extractLsb' 10 2

/-- Coarse Y, bits 9-5 of v or t (R455). -/
def coarseY (v : VAddr) : BitVec 5 := v.extractLsb' 5 5

/-- Coarse X, bits 4-0 of v or t (R455). -/
def coarseX (v : VAddr) : BitVec 5 := v.extractLsb' 0 5

/-- A scroll register from its fields (R455). -/
def scrollAddr (fy : BitVec 3) (nt : BitVec 2) (cy cx : BitVec 5) : VAddr := fy ++ nt ++ cy ++ cx

end Sys2Proof.Machine
end

