-- ==== Sys2Proof/Machine/State.lean ====
section
/-!
DEFINITION. The state of the machine as plain data: everything the spec gives the CPU, the PPU, the cartridge, the
controllers and the audio boundary (R40-R63, R450-R462, R510, R560-R580, R597), and the state after reset.
INVENTORY.md, section State, lists every field with its rule and its reset value.
-/

namespace Sys2Proof.Machine

/-- Why the machine stops with a fault. The CPU raises no fault (R400), so there is none (DEDUCED, log 17). -/
inductive Fault where
deriving DecidableEq, Repr

/-- Why a step gives no next state (R17). Each is safe: no claim about a next state can be proved from it. -/
inductive Refusal where
  /-- Raised by an arm of `exec` whose instruction has no meaning in the model. Safe. -/
  | notModelled (mnemonic : String)
  /-- Raised by `execUnassigned`: the opcode byte is one of the 105 of R150 (R395). Safe. -/
  | unassignedOpcode (op : Byte)
  /-- Raised by an access to PPU register 4 while rendering is active (R469, R481). Safe. -/
  | oamAccessDuringRendering
  /-- Raised by an access to PPU register 7 while rendering is active (R471, R472, R481). Safe. -/
  | vramAccessDuringRendering
deriving DecidableEq, Repr

/-- Cells of `n` bits by address: the form of every memory of the machine. `Cells 8` is a list of `Host.Cell`. The
canonical form, addresses strictly rising and no cell equal to what an unlisted address reads as, is `Cells.wf`. -/
abbrev Cells (n : Nat) := List (Nat × BitVec n)

/-- A memory of bytes. -/
abbrev Mem := List Host.Cell

/-- The six stored bits of P (R46). -/
structure Flags where
  n : Bool
  v : Bool
  d : Bool
  i : Bool
  z : Bool
  c : Bool
deriving DecidableEq, Repr

/-- The CPU register file (R40-R46). -/
structure Regs where
  a : Byte
  x : Byte
  y : Byte
  s : Byte
  pc : Addr
  p : Flags
deriving DecidableEq, Repr

/-- The interrupt state of R54. -/
structure Interrupts where
  /-- The level of the non-maskable input, driven by the PPU (R411). -/
  nmiLine : Bool
  /-- The edge-latched NMI request (R410). -/
  nmiLatched : Bool
  /-- The result of the last poll (R412). -/
  intDue : Bool
deriving DecidableEq, Repr

/-- The scroll state of R455. -/
structure Scroll where
  v : VAddr
  t : VAddr
  /-- Fine X. -/
  x : BitVec 3
  /-- The write toggle, false = first write. -/
  w : Bool
deriving DecidableEq, Repr

/-- The background latches and shift registers (R510). -/
structure BgPipe where
  ntLatch : Byte
  atLatch : BitVec 2
  ptlLatch : Byte
  pthLatch : Byte
  bgLo : BitVec 16
  bgHi : BitVec 16
  atLo : Byte
  atHi : Byte
  atFeedLo : Bool
  atFeedHi : Bool
deriving DecidableEq, Repr

/-- One of the eight sprite slots of a line (R510). -/
structure SpriteSlot where
  valid : Bool
  lo : Byte
  hi : Byte
  attr : Byte
  x : Byte
deriving DecidableEq, Repr

/-- The sprite scan buffer, the count of sprites found and the slots (R510). -/
structure SpritePipe where
  secondary : Vector Byte 32
  count : Nat
  slots : Vector SpriteSlot 8
deriving DecidableEq, Repr

/-- One pixel of the output: a colour index and the emphasis bits mask[7:5] (R532). -/
structure Pixel where
  colour : Colour
  emphasis : BitVec 3
deriving DecidableEq, Repr

/-- The picture unit (R58, R450-R462, R510). -/
structure Ppu where
  /-- Register 0 (R459). -/
  ctrl : Byte
  /-- Register 1 (R460). -/
  mask : Byte
  vblank : Bool
  sprite0Hit : Bool
  spriteOverflow : Bool
  oamaddr : Byte
  readBuffer : Byte
  /-- The open-bus byte (R456, R474). -/
  ioLatch : Byte
  decayTimer : Nat
  scroll : Scroll
  /-- With `dot`, the position of the next dot to execute (R457). -/
  scanline : Nat
  dot : Nat
  oddFrame : Bool
  frameComplete : Bool
  bg : BgPipe
  spr : SpritePipe
  /-- Sprite attribute memory, addresses 0-255 (R453). -/
  oam : Mem
  /-- Nametable RAM, addresses 0-0x7FF (R454). -/
  ciram : Mem
  /-- Palette RAM, entries by `palidx` (R452). -/
  palette : Cells 6
  /-- The frame buffer, 240 rows of 256 pixels (R458). -/
  frame : Vector (Vector Pixel 256) 240
deriving DecidableEq, Repr

/-- The mapper policies (R560). -/
inductive Mapper where
  /-- Id 0 (R562). -/
  | fixed
  /-- Id 1 (R566-R571). -/
  | shiftRegister
  /-- Id 2 (R563). -/
  | lowSwitch
  /-- Id `HIGH_SWITCH_MAPPER_ID` (R564). -/
  | highSwitch
  /-- Id 3 (R565). -/
  | graphicsSwitch
deriving DecidableEq, Repr

/-- The mirroring a cartridge header can name (R560). -/
inductive HeaderMirroring where
  | horizontal
  | vertical
deriving DecidableEq, Repr

/-- The cartridge: its images, its mapper and the mapper's registers (R59, R560-R575). -/
structure Cartridge where
  mapper : Mapper
  headerMirroring : HeaderMirroring
  /-- The program image, addresses below 0x4000 * prgBanks. -/
  prg : Mem
  prgBanks : Nat
  /-- The graphics image, addresses below 0x2000 * chrBanks. -/
  chr : Mem
  chrBanks : Nat
  /-- Cartridge RAM, addresses 0-0x1FFF (R573). -/
  prgRam : Mem
  /-- Graphics RAM, addresses 0-0x1FFF, used when `chrBanks` is 0 (R574). -/
  chrRam : Mem
  /-- The bank register of ids 2 and `HIGH_SWITCH_MAPPER_ID` (R563, R564). -/
  prgBank : Byte
  /-- The bank register of id 3 (R565). -/
  chrBank : Byte
  /-- The serial register of id 1 and how many bits it holds (R566). -/
  shift : BitVec 5
  shiftCount : Nat
  /-- The configuration register of id 1 (R568). -/
  control : BitVec 5
  chr0 : BitVec 5
  chr1 : BitVec 5
  prgReg : BitVec 5
  /-- `total_cycles` of the last CPU write to 0x8000-0xFFFF (R54, R567). -/
  lastWriteCycle : Option Nat
deriving DecidableEq, Repr

/-- The controller latch and the host's button state of the two ports (R580; at reset nothing pressed, DESIGN CHOICE,
log 9). -/
structure Controllers where
  shift0 : Byte
  shift1 : Byte
  strobe : Bool
  buttons0 : Byte
  buttons1 : Byte
deriving DecidableEq, Repr

/-- The audio boundary: what the audio unit has seen, the newest first, and the interrupt time it answers
(R595-R597, R414; DESIGN CHOICE, log 5). -/
structure AudioPort where
  events : List AudioEvent
  irqTime : Option Nat
deriving DecidableEq, Repr

/-- The whole machine. -/
structure State where
  cpu : Regs
  intr : Interrupts
  /-- A sprite-DMA request with its source page (R54, R590). -/
  dmaReq : Option Byte
  /-- The cycle clock, restarted by the host once a frame (R56). -/
  clock : Nat
  /-- CPU cycles since power-on (R54). -/
  totalCycles : Nat
  /-- The refusal mark, with its reason (R17, R54; DESIGN CHOICE, log 10). -/
  refused : Option Refusal
  /-- Work RAM, addresses 0-0x7FF (R57). -/
  ram : Mem
  ppu : Ppu
  cart : Cartridge
  pads : Controllers
  audio : AudioPort
  /-- The open parameters; no step changes them (R11; DESIGN CHOICE, log 2). -/
  cfg : Params
deriving DecidableEq, Repr

/-- A slot with nothing in it (R462). -/
def SpriteSlot.empty : SpriteSlot where
  valid := false
  lo := 0
  hi := 0
  attr := 0
  x := 0

/-- The PPU after the 21 dots of the reset dispatch (R462, R621): its registers 0, the position (261, 21), its
memories with nothing listed (DESIGN CHOICE, log 6). -/
def Ppu.reset : Ppu where
  ctrl := 0
  mask := 0
  vblank := false
  sprite0Hit := false
  spriteOverflow := false
  oamaddr := 0
  readBuffer := 0
  ioLatch := 0
  decayTimer := 0
  scroll := { v := 0, t := 0, x := 0, w := false }
  scanline := 261
  dot := 21
  oddFrame := false
  frameComplete := false
  bg := { ntLatch := 0, atLatch := 0, ptlLatch := 0, pthLatch := 0, bgLo := 0, bgHi := 0,
          atLo := 0, atHi := 0, atFeedLo := false, atFeedHi := false }
  spr := { secondary := Vector.replicate 32 0, count := 0, slots := Vector.replicate 8 SpriteSlot.empty }
  oam := []
  ciram := []
  palette := []
  frame := Vector.replicate 240 (Vector.replicate 256 { colour := 0, emphasis := 0 })

/-- The cartridge of the reset state: the host's input, of which the model's choice is mapper 0, two program banks and
one graphics bank with nothing listed, vertical mirroring (DESIGN CHOICE, log 7); the mapper registers as R571 and R575 say. -/
def Cartridge.reset : Cartridge where
  mapper := .fixed
  headerMirroring := .vertical
  prg := []
  prgBanks := 2
  chr := []
  chrBanks := 1
  prgRam := []
  chrRam := []
  prgBank := 0
  chrBank := 0
  shift := 0
  shiftCount := 0
  control := 0x0C
  chr0 := 0
  chr1 := 0
  prgReg := 0
  lastWriteCycle := none

/-- The machine right after reset: `power_on()` of R620 and R621, its seven dispatch cycles done. The pc is the word at
the reset vector of the reset cartridge. -/
def State.reset : State where
  cpu := { a := 0, x := 0, y := 0, s := 0xFD, pc := 0x0000,
           p := { n := false, v := false, d := false, i := true, z := false, c := false } }
  intr := { nmiLine := false, nmiLatched := false, intDue := false }
  dmaReq := none
  clock := 7
  totalCycles := 7
  refused := none
  ram := []
  ppu := Ppu.reset
  cart := Cartridge.reset
  pads := { shift0 := 0, shift1 := 0, strobe := false, buttons0 := 0, buttons1 := 0 }
  audio := { events := [], irqTime := none }
  cfg := Params.default

end Sys2Proof.Machine
end

