-- ==== Sys2Proof/Machine/Memory.lean ====
section
/-!
DEFINITION. The memories of the machine as cells by address, in one canonical form: addresses strictly rising, and no
cell equal to what an unlisted address reads as (DESIGN CHOICE, log 6). A read after a write returns the value written (R109).
-/

namespace Sys2Proof.Machine

/-- What an address that no cell lists reads as (DESIGN CHOICE, log 6). -/
def unlisted (n : Nat) : BitVec n := 0#n

/-- The canonical form: addresses strictly rising, no cell equal to `unlisted`. -/
def Cells.wf {n : Nat} : Cells n → Bool
  | [] => true
  | (a, v) :: m => v != unlisted n && m.all (fun c => a < c.1) && Cells.wf m

/-- Every cell lies at an address below `size`. -/
def Cells.below {n : Nat} (m : Cells n) (size : Nat) : Bool := m.all (fun c => c.1 < size)

/-- The value at an address. -/
def readCell {n : Nat} : Cells n → Nat → BitVec n
  | [], _ => unlisted n
  | (b, v) :: m, a => if a = b then v else readCell m a

/-- The cells without those at one address. -/
def eraseCell {n : Nat} (m : Cells n) (a : Nat) : Cells n := m.filter (fun c => c.1 != a)

/-- The cells with one more, before the first of a higher address. -/
def insertCell {n : Nat} : Cells n → Nat → BitVec n → Cells n
  | [], a, v => [(a, v)]
  | c :: m, a, v => if a < c.1 then (a, v) :: c :: m else c :: insertCell m a v

/-- The cells after a write of `v` at `a`. Writing what an unlisted address reads as removes the cell. -/
def writeCell {n : Nat} (m : Cells n) (a : Nat) (v : BitVec n) : Cells n :=
  if v = unlisted n then eraseCell m a else insertCell (eraseCell m a) a v

end Sys2Proof.Machine
end

