-- ==== Sys2Proof/Machine/Cartridge.lean ====
section
/-!
DEFINITION. The cartridge: program, graphics and nametable translation of the mapper policies, cartridge RAM, graphics
memory and the bank-select writes (R560-R577).
-/

namespace Sys2Proof.Machine

/-- Where in the program image the CPU address `a` of 0x8000-0xFFFF lies, for a bank of 16 KiB (R561). -/
def bankOffset (bank : Nat) (a : Addr) : Nat := 0x4000 * bank + a.toNat % 0x4000

/-- The bank that id 1 maps at `a` (R569): control[3:2] selects the mode, prg_reg[3:0] the bank. -/
def serialBank (c : Cartridge) (a : Addr) : Nat :=
  let p := c.prgReg.toNat % 16
  let mode := c.control.extractLsb' 2 2
  if mode = 2 then if a.toNat ≤ 0xBFFF then 0 else p % c.prgBanks
  else if mode = 3 then if a.toNat ≤ 0xBFFF then p % c.prgBanks else c.prgBanks - 1
  else (p / 2 * 2 + if a.toNat ≤ 0xBFFF then 0 else 1) % c.prgBanks

/-- The bank that the high-switch board fixes at 0x8000 (R564). -/
def highFixedBank (cfg : Params) (c : Cartridge) : Nat :=
  match cfg.highSwitchFixedBank with
  | .first => 0
  | .last => c.prgBanks - 1

/-- Where in the program image a CPU address of 0x8000-0xFFFF lies, by the mapper's policy (R562-R565,
R569). For ids 0 and 3 R562 gives it for one or two banks; with more, the same formula (DESIGN CHOICE, log 18). -/
def programOffset (cfg : Params) (c : Cartridge) (a : Addr) : Nat :=
  match c.mapper with
  | .fixed | .graphicsSwitch => (a.toNat - 0x8000) % (0x4000 * c.prgBanks)
  | .lowSwitch =>
    if a.toNat ≤ 0xBFFF then bankOffset (c.prgBank.toNat % c.prgBanks) a else bankOffset (c.prgBanks - 1) a
  | .highSwitch =>
    if a.toNat ≤ 0xBFFF then bankOffset (highFixedBank cfg c) a else bankOffset (c.prgBank.toNat % c.prgBanks) a
  | .shiftRegister => bankOffset (serialBank c a) a

/-- `read_program(a)`: a function of the physical offset alone (R577). -/
def readProgram (cfg : Params) (c : Cartridge) (a : Addr) : Byte := readCell c.prg (programOffset cfg c a)

/-- The mirroring modes of R572. -/
inductive Mirroring where
  | horizontal
  | vertical
  | singlePage0
  | singlePage1
deriving DecidableEq, Repr

/-- The mirroring mode: control[1:0] for id 1, the header's for the others (R568, R572). -/
def Cartridge.mirroring (c : Cartridge) : Mirroring :=
  match c.mapper with
  | .shiftRegister =>
    let m := c.control.extractLsb' 0 2
    if m = 0 then .singlePage0 else if m = 1 then .singlePage1 else if m = 2 then .vertical else .horizontal
  | .fixed | .lowSwitch | .highSwitch | .graphicsSwitch =>
    match c.headerMirroring with
    | .horizontal => .horizontal
    | .vertical => .vertical

/-- The CIRAM page of one of the four logical nametables (R572). -/
def Mirroring.page (m : Mirroring) (table : Nat) : Nat :=
  match m with
  | .horizontal => table / 2
  | .vertical => table % 2
  | .singlePage0 => 0
  | .singlePage1 => 1

/-- `mirror_nametable_address(a)`: the CIRAM index of a PPU address in 0x2000-0x3EFF (R572). -/
def mirrorNametableAddress (c : Cartridge) (a : Nat) : Nat :=
  let r := (a - 0x2000) % 0x1000
  0x400 * c.mirroring.page (r / 0x400) + r % 0x400

/-- The number of 8 KiB graphics banks that a bank number is reduced by: graphics RAM is one. R570
states this for id 1; for id 3 it is read from R561 (DEDUCED, log 13). -/
def chrUnits8K (c : Cartridge) : Nat := max c.chrBanks 1

/-- `chr_addr(a)` for a PPU address in 0x0000-0x1FFF (R565, R570, R574). -/
def chrAddr (c : Cartridge) (a : Nat) : Nat :=
  match c.mapper with
  | .fixed | .lowSwitch | .highSwitch => a
  | .graphicsSwitch => 0x2000 * (c.chrBank.toNat % chrUnits8K c) + a
  | .shiftRegister =>
    let m := 2 * chrUnits8K c
    let unit :=
      if bit c.control 4 then (if a ≤ 0x0FFF then c.chr0.toNat else c.chr1.toNat) % m
      else (c.chr0.toNat / 2 * 2 + if a ≤ 0x0FFF then 0 else 1) % m
    0x1000 * unit + a % 0x1000

/-- `read_graphics(a)`: ROM, or RAM when the image has no graphics bank (R574). -/
def readGraphics (c : Cartridge) (a : Nat) : Byte :=
  if c.chrBanks = 0 then readCell c.chrRam (chrAddr c a) else readCell c.chr (chrAddr c a)

/-- `write_graphics(a, v)`: RAM stores, ROM does nothing (R574). -/
def writeGraphics (c : Cartridge) (a : Nat) (v : Byte) : Cartridge :=
  if c.chrBanks = 0 then { c with chrRam := writeCell c.chrRam (chrAddr c a) v } else c

/-- `read_ram(a)` for a CPU address in 0x6000-0x7FFF (R573). -/
def readPrgRam (c : Cartridge) (a : Addr) : Byte := readCell c.prgRam (a.toNat - 0x6000)

/-- `write_ram(a, v)` for a CPU address in 0x6000-0x7FFF (R573). -/
def writePrgRam (c : Cartridge) (a : Addr) (v : Byte) : Cartridge :=
  { c with prgRam := writeCell c.prgRam (a.toNat - 0x6000) v }

/-- The value a bank-select write takes: with bus conflicts, its AND with the byte at the address
under the banking before the write (R576; DEDUCED, log 16). -/
def conflictValue (cfg : Params) (c : Cartridge) (a : Addr) (v : Byte) : Byte :=
  if cfg.busConflicts then v &&& readProgram cfg c a else v

/-- Whether id 1 ignores a write as the second of two in consecutive cycles (R567). -/
def ignoresConsecutive (cfg : Params) (total : Nat) (c : Cartridge) : Bool :=
  cfg.mmc1IgnoreConsecutive && c.lastWriteCycle.any (fun k => total = k + 1)

/-- The commit of the fifth serial write, to the register that bits 14-13 of its address select (R566). -/
def serialCommit (c : Cartridge) (a : Addr) (value : BitVec 5) : Cartridge :=
  let r := a.extractLsb' 13 2
  let c := { c with shift := 0, shiftCount := 0 }
  if r = 0 then { c with control := value }
  else if r = 1 then { c with chr0 := value }
  else if r = 2 then { c with chr1 := value }
  else { c with prgReg := value }

/-- A serial write of id 1: reset when bit 7 is set, else one bit shifted in, and a commit at the fifth (R566). -/
def serialWrite (c : Cartridge) (a : Addr) (v : Byte) : Cartridge :=
  if bit v 7 then { c with shift := 0, shiftCount := 0, control := c.control ||| 0x0C }
  else
    let shift := (c.shift >>> 1) ||| ((BitVec.ofBool (bit v 0)).setWidth 5 <<< 4)
    let count := c.shiftCount + 1
    if count = 5 then serialCommit c a shift else { c with shift := shift, shiftCount := count }

/-- `write_bank_select(a, v)` in the cycle that ends with `total` cycles since power-on; every such write records
its cycle (R562-R567, R576; DEDUCED, log 15). -/
def writeBankSelect (cfg : Params) (total : Nat) (c : Cartridge) (a : Addr) (v : Byte) : Cartridge :=
  let c' :=
    match c.mapper with
    | .fixed => c
    | .lowSwitch | .highSwitch => { c with prgBank := conflictValue cfg c a v }
    | .graphicsSwitch => { c with chrBank := conflictValue cfg c a v }
    | .shiftRegister => if ignoresConsecutive cfg total c then c else serialWrite c a v
  { c' with lastWriteCycle := some total }

end Sys2Proof.Machine
end

