-- ==== Sys2Proof/Machine/PpuMemory.lean ====
section
/-!
DEFINITION. The PPU's register fields, its address space and the primitives that reach it (R451-R461, R480, R482).
-/

namespace Sys2Proof.Machine

/-- `ctrl.nmi_enable` (R459). -/
def Ppu.nmiEnable (p : Ppu) : Bool := bit p.ctrl 7

/-- The height of a sprite: 16 when `ctrl.sprite_size` is set, else 8 (R459, R520). -/
def Ppu.spriteHeight (p : Ppu) : Nat := if bit p.ctrl 5 then 16 else 8

/-- The background pattern table's base, by `ctrl.bg_table` (R459, R514). -/
def Ppu.bgTable (p : Ppu) : PAddr := if bit p.ctrl 4 then 0x1000 else 0

/-- The 8x8 sprite pattern table's base, by `ctrl.sprite_table` (R459, R523). -/
def Ppu.spriteTable (p : Ppu) : PAddr := if bit p.ctrl 3 then 0x1000 else 0

/-- The data port's increment, by `ctrl.inc32` (R459, R471). -/
def Ppu.increment (p : Ppu) : VAddr := if bit p.ctrl 2 then 32 else 1

/-- `mask.show_sprites` (R460). -/
def Ppu.showSprites (p : Ppu) : Bool := bit p.mask 4

/-- `mask.show_bg` (R460). -/
def Ppu.showBg (p : Ppu) : Bool := bit p.mask 3

/-- `mask.show_sprites_left` (R460). -/
def Ppu.showSpritesLeft (p : Ppu) : Bool := bit p.mask 2

/-- `mask.show_bg_left` (R460). -/
def Ppu.showBgLeft (p : Ppu) : Bool := bit p.mask 1

/-- `mask.greyscale` (R460). -/
def Ppu.greyscale (p : Ppu) : Bool := bit p.mask 0

/-- The emphasis bits mask[7:5] (R460, R532). -/
def Ppu.emphasis (p : Ppu) : BitVec 3 := p.mask.extractLsb' 5 3

/-- `rendering_enabled()`: both show flags (R480, C1). -/
def Ppu.renderingEnabled (p : Ppu) : Bool := p.showBg && p.showSprites

/-- The lines on which the PPU fetches: the visible lines and the pre-render line (R480). -/
def Ppu.fetchLine (p : Ppu) : Bool := p.scanline ≤ 239 || p.scanline = 261

/-- `rendering_active()` (R480). -/
def Ppu.renderingActive (p : Ppu) : Bool := p.renderingEnabled && p.fetchLine

/-- `palidx(a)`: entries 0x10, 0x14, 0x18, 0x1C are the cells of 0x00, 0x04, 0x08, 0x0C (R452). -/
def palidx (a : PAddr) : Nat :=
  if a &&& 0x13 = 0x10 then (a &&& 0x0F).toNat else (a &&& 0x1F).toNat

/-- The palette entry at a PPU address of 0x3F00-0x3FFF (R452). -/
def Ppu.paletteAt (p : Ppu) (a : PAddr) : Colour := readCell p.palette (palidx a)

/-- `vram_read(a)` (R482). -/
def vramRead (c : Cartridge) (p : Ppu) (a : PAddr) : Byte :=
  if a.toNat ≤ 0x1FFF then readGraphics c a.toNat
  else if a.toNat ≤ 0x3EFF then readCell p.ciram (mirrorNametableAddress c a.toNat)
  else (p.paletteAt a).setWidth 8

/-- The cartridge after `vram_write(a, v)`: pattern addresses are the cartridge's (R482). -/
def vramWriteCart (c : Cartridge) (a : PAddr) (v : Byte) : Cartridge :=
  if a.toNat ≤ 0x1FFF then writeGraphics c a.toNat v else c

/-- The PPU after `vram_write(a, v)`: nametable and palette addresses are its own (R482). -/
def vramWritePpu (c : Cartridge) (p : Ppu) (a : PAddr) (v : Byte) : Ppu :=
  if a.toNat ≤ 0x1FFF then p
  else if a.toNat ≤ 0x3EFF then { p with ciram := writeCell p.ciram (mirrorNametableAddress c a.toNat) v }
  else { p with palette := writeCell p.palette (palidx a) (v.setWidth 6) }

end Sys2Proof.Machine
end

