-- ==== Sys2Proof/Machine/Background.lean ====
section
/-!
DEFINITION. The background pipeline of the PPU: fetches, shifts and the scroll increments and copies (R512-R519, R527).
-/

namespace Sys2Proof.Machine

/-- Nametable fetch (R512). -/
def Ppu.fetchNt (c : Cartridge) (p : Ppu) : Ppu :=
  let a : PAddr := 0x2000 ||| (p.scroll.v.setWidth 14 &&& 0x0FFF)
  { p with bg := { p.bg with ntLatch := vramRead c p a } }

/-- The address of the attribute byte of v (R513). -/
def attributeAddr (v : VAddr) : PAddr :=
  let w : PAddr := v.setWidth 14
  0x23C0 ||| (w &&& 0x0C00) ||| ((w >>> 4) &&& 0x38) ||| ((w >>> 2) &&& 0x07)

/-- By how much the attribute byte is shifted for the quadrant of v (R513). -/
def attributeShift (v : VAddr) : Nat := (((v >>> 4) &&& 0x04) ||| (v &&& 0x02)).toNat

/-- Attribute fetch (R513). -/
def Ppu.fetchAt (c : Cartridge) (p : Ppu) : Ppu :=
  let byte := vramRead c p (attributeAddr p.scroll.v)
  { p with bg := { p.bg with atLatch := (byte >>> attributeShift p.scroll.v).setWidth 2 } }

/-- The address of the low pattern byte of the tile in the nametable latch (R514). -/
def Ppu.patternAddr (p : Ppu) : PAddr :=
  p.bgTable + 16 * p.bg.ntLatch.setWidth 14 + (fineY p.scroll.v).setWidth 14

/-- Low pattern fetch (R514). -/
def Ppu.fetchPtLo (c : Cartridge) (p : Ppu) : Ppu :=
  { p with bg := { p.bg with ptlLatch := vramRead c p p.patternAddr } }

/-- High pattern fetch (R514). -/
def Ppu.fetchPtHi (c : Cartridge) (p : Ppu) : Ppu :=
  { p with bg := { p.bg with pthLatch := vramRead c p (p.patternAddr + 8) } }

/-- `shift_bg()` (R515). -/
def BgPipe.shift (b : BgPipe) : BgPipe :=
  { b with
    bgLo := b.bgLo <<< 1
    bgHi := b.bgHi <<< 1
    atLo := (b.atLo <<< 1) ||| (BitVec.ofBool b.atFeedLo).setWidth 8
    atHi := (b.atHi <<< 1) ||| (BitVec.ofBool b.atFeedHi).setWidth 8 }

/-- `reload_bg()` (R515). -/
def BgPipe.reload (b : BgPipe) : BgPipe :=
  { b with
    bgLo := b.bgLo.extractLsb' 8 8 ++ b.ptlLatch
    bgHi := b.bgHi.extractLsb' 8 8 ++ b.pthLatch
    atFeedLo := bit b.atLatch 0
    atFeedHi := bit b.atLatch 1 }

/-- `increment_coarse_x()` (R516). -/
def incrementCoarseX (v : VAddr) : VAddr :=
  if coarseX v = 31 then scrollAddr (fineY v) (nametable v ^^^ 1) (coarseY v) 0
  else scrollAddr (fineY v) (nametable v) (coarseY v) (coarseX v + 1)

/-- `increment_y()` (R517). -/
def incrementY (v : VAddr) : VAddr :=
  if fineY v ≠ 7 then scrollAddr (fineY v + 1) (nametable v) (coarseY v) (coarseX v)
  else if coarseY v = 29 then scrollAddr 0 (nametable v ^^^ 2) 0 (coarseX v)
  else if coarseY v = 31 then scrollAddr 0 (nametable v) 0 (coarseX v)
  else scrollAddr 0 (nametable v) (coarseY v + 1) (coarseX v)

/-- The horizontal copy of t into v, mask 0x041F (R518). -/
def copyHorizontal (t v : VAddr) : VAddr := (v &&& 0x7BE0) ||| (t &&& 0x041F)

/-- The vertical copy of t into v, mask 0x7BE0 (R519). -/
def copyVertical (t v : VAddr) : VAddr := (v &&& 0x041F) ||| (t &&& 0x7BE0)

/-- A change of v by a function of v and t. -/
def Ppu.mapV (f : VAddr → VAddr → VAddr) (p : Ppu) : Ppu :=
  { p with scroll := { p.scroll with v := f p.scroll.t p.scroll.v } }

/-- `bg_fetch(phase)` (R511-R516). -/
def Ppu.bgFetch (c : Cartridge) (phase : Nat) (p : Ppu) : Ppu :=
  if phase = 0 then p.fetchNt c
  else if phase = 2 then p.fetchAt c
  else if phase = 4 then p.fetchPtLo c
  else if phase = 6 then p.fetchPtHi c
  else if phase = 7 then ({ p with bg := p.bg.reload }).mapV (fun _ v => incrementCoarseX v)
  else p

/-- One dot of the background fetch ranges: shift, then fetch (R511, R515). -/
def Ppu.bgDot (c : Cartridge) (d : Nat) (p : Ppu) : Ppu :=
  ({ p with bg := p.bg.shift }).bgFetch c ((d - 1) % 8)

/-- A pixel value of two bits, high bit first. -/
def twoBits (hi lo : Bool) : BitVec 2 := BitVec.ofBool hi ++ BitVec.ofBool lo

/-- `bg_pixel(x)`: the pixel value and the palette number (R527). -/
def Ppu.bgPixel (p : Ppu) (x : Nat) : BitVec 2 × BitVec 2 :=
  if !p.showBg || (x < 8 && !p.showBgLeft) then (0, 0)
  else
    let k := p.scroll.x.toNat
    (twoBits (bit p.bg.bgHi (15 - k)) (bit p.bg.bgLo (15 - k)), twoBits (bit p.bg.atHi (7 - k)) (bit p.bg.atLo (7 - k)))

end Sys2Proof.Machine
end

