-- ==== Sys2Proof/Machine/Sprites.lean ====
section
/-!
DEFINITION. The sprite pipeline of the PPU: evaluation, the overflow scan, fetch and the sprite pixel (R520-R528).
-/

namespace Sys2Proof.Machine

/-- Whether a sprite of height `h` whose first byte is `y` is in range on line `s`, on naturals (R520). -/
def inRange (y : Byte) (h s : Nat) : Bool := y.toNat ≤ s && s < y.toNat + h

/-- The scan buffer after sprite `n`'s last three bytes are copied behind its first (R520). -/
def copySprite (oam : Mem) (n count : Nat) (sec : Vector Byte 32) : Vector Byte 32 :=
  ((sec.setIfInBounds (4 * count + 1) (readCell oam (4 * n + 1))).setIfInBounds (4 * count + 2)
    (readCell oam (4 * n + 2))).setIfInBounds (4 * count + 3) (readCell oam (4 * n + 3))

/-- What the evaluation loop has after some sprites: the scan buffer, how many it found, the next sprite. -/
structure Scan where
  secondary : Vector Byte 32
  count : Nat
  next : Nat
deriving DecidableEq, Repr

/-- The loop of `evaluate_sprites` on line `s`, with at most `fuel` sprites to go (R520). -/
def findSprites (oam : Mem) (h s : Nat) : Nat → Scan → Scan
  | 0, k => k
  | fuel + 1, k =>
    if 8 ≤ k.count then k
    else
      let y := readCell oam (4 * k.next)
      let sec := k.secondary.setIfInBounds (4 * k.count) y
      if inRange y h s then
        findSprites oam h s fuel
          { secondary := copySprite oam k.next k.count sec, count := k.count + 1, next := k.next + 1 }
      else findSprites oam h s fuel { secondary := sec, count := k.count, next := k.next + 1 }

/-- `overflow_scan(s, n)` with `fuel` sprites to go: whether the misaligned cursor finds a byte in range (R521). -/
def overflowScan (oam : Mem) (h s : Nat) : Nat → Nat → Nat → Bool
  | 0, _, _ => false
  | fuel + 1, n, m =>
    if inRange (readCell oam (4 * n + m)) h s then true else overflowScan oam h s fuel (n + 1) ((m + 1) % 4)

/-- `evaluate_sprites(s)`: the pre-render line only clears (R520, R526). -/
def Ppu.evaluateSprites (p : Ppu) : Ppu :=
  let clear : Scan := { secondary := Vector.replicate 32 0xFF, count := 0, next := 0 }
  if p.scanline = 261 then { p with spr := { p.spr with secondary := clear.secondary, count := 0 } }
  else
    let k := findSprites p.oam p.spriteHeight p.scanline 64 clear
    let spill := overflowScan p.oam p.spriteHeight p.scanline (64 - k.next) k.next 0
    { p with
      spr := { p.spr with secondary := k.secondary, count := k.count }
      spriteOverflow := p.spriteOverflow || spill }

/-- Byte `k` of the scan buffer. -/
def SpritePipe.byte (s : SpritePipe) (k : Nat) : Byte := s.secondary[k]?.getD 0

/-- Slot `i`. -/
def SpritePipe.slot (s : SpritePipe) (i : Nat) : SpriteSlot := s.slots[i]?.getD SpriteSlot.empty

/-- `sprite16_addr(tile, row)` (R524; the row as an integer, DEDUCED, log 12). -/
def sprite16Addr (tile : Byte) (row : Int) : PAddr :=
  let base : PAddr := if bit tile 0 then 0x1000 else 0
  let t : PAddr := (tile &&& 0xFE).setWidth 14
  if 8 ≤ row then base + 16 * (t + 1) + BitVec.ofInt 14 (row - 8) else base + 16 * t + BitVec.ofInt 14 row

/-- The row of the sprite of first byte `y` on line `s`, flipped by attribute bit 7 (R523, R525; DEDUCED, log 12). -/
def spriteRow (h s : Nat) (y attr : Byte) : Int :=
  let row : Int := (s : Int) - (y.toNat : Int)
  if bit attr 7 then (h : Int) - 1 - row else row

/-- The address of the low pattern byte of a sprite (R523, R524). -/
def Ppu.spriteAddr (p : Ppu) (y tile attr : Byte) : PAddr :=
  let row := spriteRow p.spriteHeight p.scanline y attr
  if p.spriteHeight = 8 then p.spriteTable + 16 * tile.setWidth 14 + BitVec.ofInt 14 row else sprite16Addr tile row

/-- A pattern byte after the horizontal flip of attribute bit 6 (R525). -/
def flipByte (attr b : Byte) : Byte := if bit attr 6 then reverse8 b else b

/-- The slot that `fetch_sprite(i, s)` loads (R523). -/
def Ppu.fetchedSlot (c : Cartridge) (p : Ppu) (i : Nat) : SpriteSlot :=
  if i < p.spr.count then
    let attr := p.spr.byte (4 * i + 2)
    let a := p.spriteAddr (p.spr.byte (4 * i)) (p.spr.byte (4 * i + 1)) attr
    { valid := true
      lo := flipByte attr (vramRead c p a)
      hi := flipByte attr (vramRead c p (a + 8))
      attr := attr
      x := p.spr.byte (4 * i + 3) }
  else { p.spr.slot i with valid := false, lo := 0, hi := 0 }

/-- `fetch_sprite(i, s)` (R523). -/
def Ppu.fetchSprite (c : Cartridge) (i : Nat) (p : Ppu) : Ppu :=
  { p with spr := { p.spr with slots := p.spr.slots.setIfInBounds i (p.fetchedSlot c i) } }

/-- An opaque sprite pixel: its slot, pixel value, palette number and priority bit (R528). -/
structure SpriteDot where
  slot : Nat
  value : BitVec 2
  palette : BitVec 2
  behind : Bool
deriving DecidableEq, Repr

/-- The pixel of slot `i` at column `x`, if it is opaque (R528). -/
def SpritePipe.slotDot (s : SpritePipe) (x i : Nat) : Option SpriteDot :=
  let slot := s.slot i
  if slot.valid && slot.x.toNat ≤ x && x ≤ slot.x.toNat + 7 then
    let k := 7 - (x - slot.x.toNat)
    let value := BitVec.ofBool (bit slot.hi k) ++ BitVec.ofBool (bit slot.lo k)
    if value = 0 then none
    else some { slot := i, value := value, palette := slot.attr.extractLsb' 0 2, behind := bit slot.attr 5 }
  else none

/-- `sprite_pixel(x)`: the first opaque pixel in slot order (R528). -/
def Ppu.spritePixel (p : Ppu) (x : Nat) : Option SpriteDot :=
  if !p.showSprites || (x < 8 && !p.showSpritesLeft) then none
  else (List.range 8).findSome? (p.spr.slotDot x)

end Sys2Proof.Machine
end

