-- ==== Sys2Proof/Machine/Dots.lean ====
section
/-!
DEFINITION. One PPU tick: compositing and output, the events of a dot in the order of R511, the dot counter
(R476-R478, R511, R529-R533), and the decay of the open-bus byte (R474).
-/

namespace Sys2Proof.Machine

/-- `f x` when `b`, else `x`: one line of the dot's program. -/
def doIf {α : Type} (b : Bool) (f : α → α) (x : α) : α := if b then f x else x

/-- The colour of a pixel: sprite over background unless behind an opaque one, else the backdrop (R529). -/
def Ppu.compose (p : Ppu) (bg : BitVec 2 × BitVec 2) (sp : Option SpriteDot) : Colour :=
  let background : Colour :=
    if bg.1 ≠ 0 then p.paletteAt (0x3F00 + 4 * bg.2.setWidth 14 + bg.1.setWidth 14) else p.paletteAt 0x3F00
  match sp with
  | some d =>
    if bg.1 = 0 || !d.behind then p.paletteAt (0x3F10 + 4 * d.palette.setWidth 14 + d.value.setWidth 14)
    else background
  | none => background

/-- The colour of the pixel at `x`: the backdrop when rendering is disabled (R529, R531). -/
def Ppu.pixelColour (p : Ppu) (x : Nat) : Colour :=
  if p.renderingEnabled then p.compose (p.bgPixel x) (p.spritePixel x) else p.paletteAt 0x3F00

/-- Whether the pixel at `x` is a sprite-zero hit (R530). -/
def Ppu.hitsSprite0 (cfg : Params) (p : Ppu) (x : Nat) : Bool :=
  p.renderingEnabled && (p.bgPixel x).1 != 0 && (p.spritePixel x).any (fun d => d.slot = 0) &&
    x != cfg.sprite0NoHitX.column

/-- `output_pixel(s, x)` on the current line (R527-R532). -/
def Ppu.outputPixel (cfg : Params) (x : Nat) (p : Ppu) : Ppu :=
  let colour := p.pixelColour x &&& (if p.greyscale then 0x30 else 0x3F)
  let row := (p.frame[p.scanline]?.getD (Vector.replicate 256 { colour := 0, emphasis := 0 })).setIfInBounds x
    { colour := colour, emphasis := p.emphasis }
  { p with
    sprite0Hit := p.sprite0Hit || p.hitsSprite0 cfg x
    frame := p.frame.setIfInBounds p.scanline row }

/-- `vblank_start()`, less the NMI line, which `ppuTick` evaluates (R477). -/
def Ppu.vblankStart (p : Ppu) : Ppu := { p with vblank := true }

/-- `clear_frame_flags()`, less the NMI line, which `ppuTick` evaluates (R478). -/
def Ppu.clearFrameFlags (p : Ppu) : Ppu :=
  { p with vblank := false, sprite0Hit := false, spriteOverflow := false }

/-- The end of the visible frame (R478). -/
def Ppu.setFrameComplete (p : Ppu) : Ppu := { p with frameComplete := true }

/-- What every dot does whether or not rendering is enabled: the first four lines of R511. -/
def Ppu.frameDot (cfg : Params) (p : Ppu) : Ppu :=
  let s := p.scanline
  let d := p.dot
  doIf (s ≤ 239 && 1 ≤ d && d ≤ 256) (Ppu.outputPixel cfg (d - 1))
    (doIf (s = 240 && d = 0) Ppu.setFrameComplete
      (doIf (s = 261 && d = 0) Ppu.clearFrameFlags
        (doIf (s = 241 && d = 0) Ppu.vblankStart p)))

/-- Whether dot `d` is one of the eight sprite fetch dots 264, 272, ..., 320 (R511). -/
def spriteFetchDot (d : Nat) : Bool := 264 ≤ d && d ≤ 320 && d % 8 = 0

/-- What a dot of a fetching line does with rendering enabled: the other lines of R511. -/
def Ppu.renderDot (c : Cartridge) (p : Ppu) : Ppu :=
  let s := p.scanline
  let d := p.dot
  doIf (spriteFetchDot d) (Ppu.fetchSprite c ((d - 264) / 8))
    (doIf (s = 261 && 280 ≤ d && d ≤ 304) (Ppu.mapV copyVertical)
      (doIf (257 ≤ d && d ≤ 320) (fun p => { p with oamaddr := 0 })
        (doIf (d = 257) (Ppu.mapV copyHorizontal)
          (doIf (d = 256) Ppu.evaluateSprites
            (doIf (d = 256) (Ppu.mapV (fun _ v => incrementY v))
              (doIf ((1 ≤ d && d ≤ 256) || (321 ≤ d && d ≤ 336)) (Ppu.bgDot c d) p))))))

/-- `execute_dot(s, d)` at the current position (R511). -/
def Ppu.executeDot (cfg : Params) (c : Cartridge) (p : Ppu) : Ppu :=
  let p := p.frameDot cfg
  doIf p.renderingActive (Ppu.renderDot c) p

/-- `decay_step()` (R474). -/
def Ppu.decayStep (p : Ppu) : Ppu :=
  if 0 < p.decayTimer then
    if p.decayTimer = 1 then { p with decayTimer := 0, ioLatch := 0 } else { p with decayTimer := p.decayTimer - 1 }
  else p

/-- Whether the counter skips dot 339 of the pre-render line (R476). -/
def Ppu.skipsDot (p : Ppu) : Bool := p.scanline = 261 && p.dot = 338 && p.oddFrame && p.renderingEnabled

/-- The advance of the dot counter (R476). -/
def Ppu.advance (p : Ppu) : Ppu :=
  let next := if p.skipsDot then 340 else p.dot + 1
  if next = 341 then
    if p.scanline + 1 = 262 then { p with dot := 0, scanline := 0, oddFrame := !p.oddFrame }
    else { p with dot := 0, scanline := p.scanline + 1 }
  else { p with dot := next }

/-- `ppu_tick()`, less the NMI line, which `ppuTick` evaluates after it (R411, R476). -/
def Ppu.tick (cfg : Params) (c : Cartridge) (p : Ppu) : Ppu :=
  (doIf (cfg.decayUnit = .dot) Ppu.decayStep (p.executeDot cfg c)).advance

end Sys2Proof.Machine
end

