-- ==== Sys2Proof/Machine/Flags.lean ====
section
/-!
DEFINITION. Every flag computation, and the results computed with them (R46, R47, R270-R285, R310-R313).
-/

namespace Sys2Proof.Machine

/-- `Pbyte(b)`: the image of P that is pushed (R47). -/
def pushedImage (b : Bool) (p : Flags) : Byte :=
  BitVec.ofBool p.n ++ BitVec.ofBool p.v ++ BitVec.ofBool true ++ BitVec.ofBool b ++
    BitVec.ofBool p.d ++ BitVec.ofBool p.i ++ BitVec.ofBool p.z ++ BitVec.ofBool p.c

/-- P from a pulled image: bits 5 and 4 are ignored (R47). -/
def pulledImage (v : Byte) : Flags where
  n := bit v 7
  v := bit v 6
  d := bit v 3
  i := bit v 2
  z := bit v 1
  c := bit v 0

/-- `setNZ(v)` (R16). -/
def setNZ (v : Byte) (p : Flags) : Flags := { p with z := v = 0, n := bit v 7 }

/-- A flag as a number of `n` bits. -/
def flagBit (n : Nat) (b : Bool) : BitVec n := (BitVec.ofBool b).setWidth n

/-- The nine-bit sum of A, an operand and the carry (R271). -/
def carrySum (a m : Byte) (c : Bool) : BitVec 9 := a.setWidth 9 + m.setWidth 9 + flagBit 9 c

/-- The low eight bits of the sum (R271). -/
def sumByte (a m : Byte) (c : Bool) : Byte := (carrySum a m c).extractLsb' 0 8

/-- The flags after an addition: binary whatever D is (R271). -/
def addFlags (a m : Byte) (p : Flags) : Flags :=
  let r := sumByte a m p.c
  setNZ r { p with v := bit ((a ^^^ r) &&& (m ^^^ r)) 7, c := bit (carrySum a m p.c) 8 }

/-- ADC on the register file (R271). -/
def addWithCarry (m : Byte) (r : Regs) : Regs := { r with a := sumByte r.a m r.p.c, p := addFlags r.a m r.p }

/-- SBC on the register file: ADC of the inverted operand (R272). -/
def subtractWithBorrow (m : Byte) (r : Regs) : Regs := addWithCarry (m ^^^ 0xFF) r

/-- The flags after comparing a register with an operand (R276-R278). -/
def compareFlags (r m : Byte) (p : Flags) : Flags :=
  { p with c := m ≤ r, z := r = m, n := bit (r - m) 7 }

/-- The flags after BIT (R279). -/
def bitFlags (a m : Byte) (p : Flags) : Flags := { p with z := a &&& m = 0, n := bit m 7, v := bit m 6 }

/-- A result byte with the flags after it. -/
abbrev Result := Byte × Flags

/-- INC on a byte (R280). -/
def incByte (m : Byte) (p : Flags) : Result := (m + 1, setNZ (m + 1) p)

/-- DEC on a byte (R281). -/
def decByte (m : Byte) (p : Flags) : Result := (m - 1, setNZ (m - 1) p)

/-- ASL on a byte (R310). -/
def aslByte (m : Byte) (p : Flags) : Result :=
  let r := m <<< 1
  (r, setNZ r { p with c := bit m 7 })

/-- LSR on a byte (R311). -/
def lsrByte (m : Byte) (p : Flags) : Result :=
  let r := m >>> 1
  (r, setNZ r { p with c := bit m 0 })

/-- ROL on a byte (R312). -/
def rolByte (m : Byte) (p : Flags) : Result :=
  let r := (m <<< 1) ||| flagBit 8 p.c
  (r, setNZ r { p with c := bit m 7 })

/-- ROR on a byte (R313). -/
def rorByte (m : Byte) (p : Flags) : Result :=
  let r := (m >>> 1) ||| (flagBit 8 p.c <<< 7)
  (r, setNZ r { p with c := bit m 0 })

/-- A register file with A loaded and N, Z set from it (R240). -/
def loadA (m : Byte) (r : Regs) : Regs := { r with a := m, p := setNZ m r.p }

/-- A register file with X loaded and N, Z set from it (R241). -/
def loadX (m : Byte) (r : Regs) : Regs := { r with x := m, p := setNZ m r.p }

/-- A register file with Y loaded and N, Z set from it (R242). -/
def loadY (m : Byte) (r : Regs) : Regs := { r with y := m, p := setNZ m r.p }

/-- AND on the register file (R273). -/
def andA (m : Byte) (r : Regs) : Regs := loadA (r.a &&& m) r

/-- ORA on the register file (R274). -/
def orA (m : Byte) (r : Regs) : Regs := loadA (r.a ||| m) r

/-- EOR on the register file (R275). -/
def xorA (m : Byte) (r : Regs) : Regs := loadA (r.a ^^^ m) r

/-- CMP on the register file (R276). -/
def compareA (m : Byte) (r : Regs) : Regs := { r with p := compareFlags r.a m r.p }

/-- CPX on the register file (R277). -/
def compareX (m : Byte) (r : Regs) : Regs := { r with p := compareFlags r.x m r.p }

/-- CPY on the register file (R278). -/
def compareY (m : Byte) (r : Regs) : Regs := { r with p := compareFlags r.y m r.p }

/-- BIT on the register file (R279). -/
def testBits (m : Byte) (r : Regs) : Regs := { r with p := bitFlags r.a m r.p }

end Sys2Proof.Machine
end

