-- ==== Sys2Proof/Machine/Ops.lean ====
section
/-!
DEFINITION. The named operations over memory and registers: the bus cycle and its routing (R98-R101), the PPU registers
(R463-R475, R481), the controllers and the audio boundary (R580-R597), the stack (R16), the poll (R412), taking an
interrupt and returning from one (R402-R407, R419), the reset dispatch (R404) and the sprite DMA (R590).
-/

namespace Sys2Proof.Machine

/-- What a bus access gives: the byte read and the state after it. -/
abbrev Got := Byte × State

/-! ### The refusal mark and the NMI line -/

/-- `refuse(reason)`: marks the state refused; the first reason stays (R17; DESIGN CHOICE, log 10). -/
def refuse (r : Refusal) (s : State) : State :=
  match s.refused with
  | none => { s with refused := some r }
  | some _ => s

/-- The end of a step: a next state, or the refusal that its accesses marked (R17). -/
def finish (s : State) : Host.Outcome State Fault Refusal :=
  match s.refused with
  | none => .next s
  | some r => .refused r

/-- `update_nmi_line()` with the edge detection of R410 (R411, R477). -/
def updateNmi (s : State) : State :=
  let line := s.ppu.vblank && s.ppu.nmiEnable
  { s with intr := { s.intr with
      nmiLine := line
      nmiLatched := s.intr.nmiLatched || (line && !s.intr.nmiLine) } }

/-! ### The PPU registers -/

/-- `status_read()` (R465), with the suppression of R479. -/
def statusRead (s : State) : Got :=
  let p := s.ppu
  let result : Byte := BitVec.ofBool p.vblank ++ BitVec.ofBool p.sprite0Hit ++ BitVec.ofBool p.spriteOverflow ++
    p.ioLatch.extractLsb' 0 5
  let s1 := updateNmi { s with ppu := { p with vblank := false, scroll := { p.scroll with w := false } } }
  let suppress := p.scanline = 241 && 1 ≤ p.dot && p.dot ≤ 3
  (result, { s1 with intr := { s1.intr with nmiLatched := s1.intr.nmiLatched && !suppress } })

/-- `oamdata_read()` (R469, R481). -/
def oamdataRead (s : State) : Got :=
  if s.ppu.renderingActive then (0, refuse .oamAccessDuringRendering s)
  else
    let b := readCell s.ppu.oam s.ppu.oamaddr.toNat
    (if s.ppu.oamaddr &&& 3 = 2 then b &&& 0xE3 else b, s)

/-- `oamdata_write(v)` (R469, R481). -/
def oamdataWrite (v : Byte) (s : State) : State :=
  if s.ppu.renderingActive then refuse .oamAccessDuringRendering s
  else { s with ppu := { s.ppu with
          oam := writeCell s.ppu.oam s.ppu.oamaddr.toNat v
          oamaddr := s.ppu.oamaddr + 1 } }

/-- The address of the data port, `v & 0x3FFF` (R455, R471). -/
def Ppu.portAddr (p : Ppu) : PAddr := p.scroll.v.setWidth 14

/-- The PPU after the data port's increment of v (R471, R472). -/
def Ppu.stepPort (p : Ppu) : Ppu := { p with scroll := { p.scroll with v := p.scroll.v + p.increment } }

/-- `data_read()` (R471, R481). -/
def dataRead (s : State) : Got :=
  if s.ppu.renderingActive then (0, refuse .vramAccessDuringRendering s)
  else
    let p := s.ppu
    let a := p.portAddr
    if 0x3F00 ≤ a.toNat then
      ((p.paletteAt a).setWidth 8 ||| (p.ioLatch &&& 0xC0),
        { s with ppu := ({ p with readBuffer := vramRead s.cart p (a - 0x1000) }).stepPort })
    else (p.readBuffer, { s with ppu := ({ p with readBuffer := vramRead s.cart p a }).stepPort })

/-- `data_write(v)` (R472, R481). -/
def dataWrite (v : Byte) (s : State) : State :=
  if s.ppu.renderingActive then refuse .vramAccessDuringRendering s
  else
    let a := s.ppu.portAddr
    { s with cart := vramWriteCart s.cart a v, ppu := (vramWritePpu s.cart s.ppu a v).stepPort }

/-- A change of the PPU's scroll state. -/
def setScroll (f : Scroll → Scroll) (s : State) : State := { s with ppu := { s.ppu with scroll := f s.ppu.scroll } }

/-- `ctrl_write(v)` (R466). -/
def ctrlWrite (v : Byte) (s : State) : State :=
  let t := s.ppu.scroll.t
  updateNmi (setScroll (fun k => { k with t := scrollAddr (fineY t) (v.extractLsb' 0 2) (coarseY t) (coarseX t) })
    { s with ppu := { s.ppu with ctrl := v } })

/-- `mask <- v` (R467). -/
def maskWrite (v : Byte) (s : State) : State := { s with ppu := { s.ppu with mask := v } }

/-- `oamaddr <- v` (R468). -/
def oamaddrWrite (v : Byte) (s : State) : State := { s with ppu := { s.ppu with oamaddr := v } }

/-- The scroll state after `scroll_write(v)` (R470). -/
def Scroll.scrollWrite (v : Byte) (k : Scroll) : Scroll :=
  if k.w then
    { k with t := scrollAddr (v.extractLsb' 0 3) (nametable k.t) (v.extractLsb' 3 5) (coarseX k.t), w := false }
  else
    { k with
      t := scrollAddr (fineY k.t) (nametable k.t) (coarseY k.t) (v.extractLsb' 3 5)
      x := v.extractLsb' 0 3
      w := true }

/-- The scroll state after `addr_write(v)` (R473). -/
def Scroll.addrWrite (v : Byte) (k : Scroll) : Scroll :=
  if k.w then
    let t : VAddr := k.t.extractLsb' 8 7 ++ v
    { k with t := t, v := t, w := false }
  else { k with t := 0#1 ++ v.extractLsb' 0 6 ++ k.t.extractLsb' 0 8, w := true }

/-- `ppu_read(r)` (R463, R475). -/
def ppuRead (r : Nat) (s : State) : Got :=
  if r = 2 then statusRead s
  else if r = 4 then oamdataRead s
  else if r = 7 then dataRead s
  else (s.ppu.ioLatch, s)

/-- The refresh of the open-bus byte by a register write (R464, R474). -/
def refreshLatch (v : Byte) (s : State) : State :=
  { s with ppu := { s.ppu with ioLatch := v, decayTimer := 7777 } }

/-- Whether the warm-up drops a write to register `r` (R464, R623). -/
def warmupDrops (r : Nat) (s : State) : Bool :=
  s.totalCycles < s.cfg.ppuWarmupCycles && (r = 0 || r = 1 || r = 5 || r = 6)

/-- The register's own effect of a write (R464-R473). -/
def ppuRegisterWrite (r : Nat) (v : Byte) (s : State) : State :=
  if r = 0 then ctrlWrite v s
  else if r = 1 then maskWrite v s
  else if r = 3 then oamaddrWrite v s
  else if r = 4 then oamdataWrite v s
  else if r = 5 then setScroll (Scroll.scrollWrite v) s
  else if r = 6 then setScroll (Scroll.addrWrite v) s
  else if r = 7 then dataWrite v s
  else s

/-- `ppu_write(r, v)` (R464). -/
def ppuWrite (r : Nat) (v : Byte) (s : State) : State :=
  let s1 := refreshLatch v s
  if warmupDrops r s1 then s1 else ppuRegisterWrite r v s1

/-! ### The controllers and the audio boundary -/

/-- A write to 0x4016 (R581). -/
def strobeWrite (v : Byte) (s : State) : State :=
  let k := s.pads
  { s with pads :=
      if bit v 0 then { k with strobe := true, shift0 := k.buttons0, shift1 := k.buttons1 }
      else { k with strobe := false } }

/-- The byte of a controller read: the low bit of the shift register under the open high bits (R582; DESIGN CHOICE, log 4). -/
def controllerByte (shift : Byte) : Byte := (Config.controllerHighBits &&& 0xFE) ||| (shift &&& 1)

/-- A shift register after a read (R582). -/
def controllerShift (shift : Byte) : Byte := (shift >>> 1) ||| 0x80

/-- `controller_read(0)` (R582). -/
def controllerRead0 (s : State) : Got :=
  (controllerByte s.pads.shift0, { s with pads := { s.pads with shift0 := controllerShift s.pads.shift0 } })

/-- `controller_read(1)` (R582). -/
def controllerRead1 (s : State) : Got :=
  (controllerByte s.pads.shift1, { s with pads := { s.pads with shift1 := controllerShift s.pads.shift1 } })

/-- The audio boundary after one more event: the oracle answers anew (R595-R597; DESIGN CHOICE, log 5). -/
def AudioPort.see (e : AudioEvent) (k : AudioPort) : AudioPort :=
  { events := e :: k.events, irqTime := Config.audioNextIrq (e :: k.events) }

/-- `AudioOracle.rebase(clock)`: the oracle sees the restart and the interrupt time, which only writes and reads of 0x4015
change (R414), is told in the rebased clock, a time already past as its zero (R641; DESIGN CHOICE, log 5). -/
def AudioPort.rebase (clock : Nat) (k : AudioPort) : AudioPort :=
  { events := .rebase clock :: k.events, irqTime := k.irqTime.map (· - clock) }

/-- `AudioOracle.write(a, v, clock)` (R595). -/
def audioWrite (a : Addr) (v : Byte) (s : State) : State := { s with audio := s.audio.see (.write a v s.clock) }

/-- `AudioOracle.read(a, clock)` (R596). -/
def audioReadPort (a : Addr) (s : State) : Got :=
  let k := s.audio.see (.read a s.clock)
  (Config.audioRead k.events, { s with audio := k })

/-- `irq_line()` (R414). -/
def irqLine (s : State) : Bool := s.audio.irqTime.any (fun t => t ≤ s.clock)

/-! ### The bus cycle -/

/-- `route_read(a)` (R100). -/
def routeRead (a : Addr) (s : State) : Got :=
  if a.toNat ≤ 0x1FFF then (readCell s.ram (a.toNat % 0x800), s)
  else if a.toNat ≤ 0x3FFF then ppuRead (a.toNat % 8) s
  else if a.toNat = 0x4015 then audioReadPort a s
  else if a.toNat = 0x4016 then controllerRead0 s
  else if a.toNat = 0x4017 then controllerRead1 s
  else if a.toNat ≤ 0x5FFF then (Config.cpuOpenBus, s)
  else if a.toNat ≤ 0x7FFF then (readPrgRam s.cart a, s)
  else (readProgram s.cfg s.cart a, s)

/-- The byte that a memory on the CPU bus holds at an address: work RAM, cartridge RAM or program memory; `none` at an
address of a device or of no memory (R91, R92, R96). It is what a read cycle there returns, without the cycle. -/
def memByte (s : State) (a : Addr) : Option Byte :=
  if a.toNat ≤ 0x1FFF then some (readCell s.ram (a.toNat % 0x800))
  else if a.toNat ≤ 0x5FFF then none
  else if a.toNat ≤ 0x7FFF then some (readPrgRam s.cart a)
  else some (readProgram s.cfg s.cart a)

/-- `route_write(a, v)` (R101). -/
def routeWrite (a : Addr) (v : Byte) (s : State) : State :=
  if a.toNat ≤ 0x1FFF then { s with ram := writeCell s.ram (a.toNat % 0x800) v }
  else if a.toNat ≤ 0x3FFF then ppuWrite (a.toNat % 8) v s
  else if a.toNat = 0x4014 then { s with dmaReq := some v }
  else if a.toNat = 0x4016 then strobeWrite v s
  else if a.toNat ≤ 0x4017 then audioWrite a v s
  else if a.toNat ≤ 0x5FFF then s
  else if a.toNat ≤ 0x7FFF then { s with cart := writePrgRam s.cart a v }
  else { s with cart := writeBankSelect s.cfg s.totalCycles s.cart a v }

/-- `ppu_tick()`, with the NMI line evaluated after it (R411, R476). -/
def ppuTick (s : State) : State := updateNmi { s with ppu := s.ppu.tick s.cfg s.cart }

/-- What every CPU cycle does before its routing: three PPU ticks, the clocks, the decay (R98); also `idle()` (R15). -/
def tickCycle (s : State) : State :=
  let s1 := ppuTick (ppuTick (ppuTick s))
  { s1 with
    clock := s1.clock + 1
    totalCycles := s1.totalCycles + 1
    ppu := doIf (s1.cfg.decayUnit = .cpuCycle) Ppu.decayStep s1.ppu }

/-- `rd(a)`: one read cycle (R14, R98). -/
def rd (a : Addr) (s : State) : Got := routeRead a (tickCycle s)

/-- `wr(a, v)`: one write cycle (R14, R98). -/
def wr (a : Addr) (v : Byte) (s : State) : State := routeWrite a v (tickCycle s)

/-! ### Registers, the fetch and the stack -/

/-- A change of the register file. -/
def mapRegs (f : Regs → Regs) (s : State) : State := { s with cpu := f s.cpu }

/-- `PC <- a`. -/
def setPc (a : Addr) (s : State) : State := mapRegs (fun r => { r with pc := a }) s

/-- `S <- v`. -/
def setS (v : Byte) (s : State) : State := mapRegs (fun r => { r with s := v }) s

/-- `P <- p`. -/
def setP (p : Flags) (s : State) : State := mapRegs (fun r => { r with p := p }) s

/-- `b <- rd(PC); PC <- PC + 1` (R180, R45). -/
def fetch (s : State) : Got :=
  let r := rd s.cpu.pc s
  (r.1, setPc (s.cpu.pc + 1) r.2)

/-- A dummy `rd(PC)`: its value is discarded and PC stays (R183, R208). -/
def dummyFetch (s : State) : State := (rd s.cpu.pc s).2

/-- The address `0x0100 | S` (R44). -/
def stackAddr (s : State) : Addr := word 0x01 s.cpu.s

/-- `push(v)` (R16). -/
def push (v : Byte) (s : State) : State :=
  let s1 := wr (stackAddr s) v s
  setS (s.cpu.s - 1) s1

/-- A dummy stack read, `rd(0x0100 | S)` (R198, R208). -/
def dummyStack (s : State) : State := (rd (stackAddr s) s).2

/-- `S <- S + 1` (R44). -/
def incS (s : State) : State := setS (s.cpu.s + 1) s

/-- `S <- S - 1` (R44). -/
def decS (s : State) : State := setS (s.cpu.s - 1) s

/-- The read of the byte at the top of the stack, `rd(0x0100 | S)` (R199, R200, R202). -/
def readStack (s : State) : Got := rd (stackAddr s) s

/-! ### Interrupts -/

/-- `poll()` (R412). -/
def poll (s : State) : State :=
  { s with intr := { s.intr with
      intDue := s.intr.intDue || s.intr.nmiLatched || (!s.cpu.p.i && irqLine s) } }

/-- The vector of an NMI (R97, R401). -/
def nmiVector : Addr := 0xFFFA

/-- The vector of the reset (R97, R401). -/
def resetVector : Addr := 0xFFFC

/-- The vector of IRQ and BRK (R97, R401). -/
def irqVector : Addr := 0xFFFE

/-- `lo <- rd(vec); hi <- rd(vec + 1); PC <- {hi, lo}` (R403, R408). -/
def loadVector (vec : Addr) (s : State) : State :=
  let lo := rd vec s
  let hi := rd (vec + 1) lo.2
  setPc (word hi.1 lo.1) hi.2

/-- The vector choice after the second push: the NMI's if it is latched, else that of IRQ and BRK (R406). -/
def chosenVector (s : State) : Addr := if s.intr.nmiLatched then nmiVector else irqVector

/-- `nmi_latched <- 0`: what the choice of the NMI vector does, and nothing when it was not latched (R406). -/
def clearLatch (s : State) : State := { s with intr := { s.intr with nmiLatched := false } }

/-- Taking an interrupt, cycles 3 to 7 of the unified dispatch: the pushes with B = `b`, the vector choice, P.I set,
PC loaded (R402, R403, R405-R407). IRQ and NMI enter with `b` clear, BRK with `b` set. -/
def enterInterrupt (b : Bool) (s : State) : State :=
  let s3 := push (hi8 s.cpu.pc) s
  let s4 := push (lo8 s.cpu.pc) s3
  let s5 := push (pushedImage b s4.cpu.p) (clearLatch s4)
  loadVector (chosenVector s4) (setP { s5.cpu.p with i := true } s5)

/-- `interrupt_dispatch()` (R403). -/
def interruptDispatch (s : State) : State := enterInterrupt false (dummyFetch (dummyFetch s))

/-- `int_due <- 0` (R180, R413). -/
def clearDue (s : State) : State := { s with intr := { s.intr with intDue := false } }

/-- `reset_dispatch()` (R404). -/
def resetDispatch (s : State) : State :=
  let s2 := dummyFetch (dummyFetch s)
  let s3 := decS (dummyStack s2)
  let s4 := decS (dummyStack s3)
  let s5 := decS (dummyStack s4)
  loadVector resetVector (setP { s5.cpu.p with i := true } s5)

/-- The return from an interrupt, cycles 3 to 6 of RTI: P pulled at cycle 4, the poll after cycle 5, PC loaded at
cycle 6 (R200, R204, R419). -/
def returnFromInterrupt (s : State) : State :=
  let s3 := incS (dummyStack s)
  let v := readStack s3
  let s4 := incS (setP (pulledImage v.1) v.2)
  let lo := readStack s4
  let s5 := poll (incS lo.2)
  let hi := readStack s5
  setPc (word hi.1 lo.1) hi.2

/-! ### The sprite DMA -/

/-- The read and write pairs of the DMA from byte `i` of the page on, `n` of them (R590). -/
def dmaCopy (page : Byte) : Nat → Byte → State → State
  | 0, _, s => s
  | n + 1, i, s =>
    let r := rd (word page i) s
    dmaCopy page n (i + 1) (wr 0x2004 r.1 r.2)

/-- Whether the DMA needs its alignment cycle (R590). -/
def dmaOdd (s : State) : Bool := (s.totalCycles + s.cfg.dmaParityPhase.val) % 2 = 1

/-- `oam_dma()` from a page: the halt cycle, the alignment cycle when odd, 256 pairs (R590). -/
def oamDma (page : Byte) (s : State) : State :=
  let s0 := { s with dmaReq := none }
  dmaCopy page 256 0 (doIf (dmaOdd s0) tickCycle (tickCycle s0))

/-- The end of an instruction's step: the DMA it asked for, then the poll after it (R180, R418, R592). -/
def runDma (s : State) : State :=
  match s.dmaReq with
  | none => s
  | some page => poll (oamDma page s)

end Sys2Proof.Machine
end

