-- ==== Sys2Proof/Machine/Operands.lean ====
section
/-!
DEFINITION. Every operand form with its bus cycles (R142, R183-R194) and the three access classes (R181, R182), with the
poll after the penultimate cycle (R204).
An `ea…` function runs the cycles before the access at the effective address and gives that address.
-/

namespace Sys2Proof.Machine

/-- An effective address and the state after the cycles that computed it. -/
abbrev Target := Addr × State

/-- Zero page (R185). -/
def eaZp (s : State) : Target :=
  let b := fetch s
  (zext16 b.1, b.2)

/-- Zero page indexed: the unindexed address is read and discarded; the sum stays in page zero (R186). -/
def eaZpIndexed (index : Byte) (s : State) : Target :=
  let b := fetch s
  (zext16 (b.1 + index), (rd (zext16 b.1) b.2).2)

/-- Zero page,X (R186). -/
def eaZpx (s : State) : Target := eaZpIndexed s.cpu.x s

/-- Zero page,Y (R186). -/
def eaZpy (s : State) : Target := eaZpIndexed s.cpu.y s

/-- Absolute (R187). -/
def eaAbs (s : State) : Target :=
  let lo := fetch s
  let hi := fetch lo.2
  (word hi.1 lo.1, hi.2)

/-- Whether an index carries out of the low byte of an address (R188, R191). -/
def crosses (lo index : Byte) : Bool := 0xFF < lo.toNat + index.toNat

/-- The address with the index added to its low byte only (R188). -/
def partialAddr (hi lo index : Byte) : Addr := word hi (lo + index)

/-- The last cycle before an indexed access: the read of the partial address, when it is made (R188, R189, R191,
R192). A read access makes it only on a page crossing, a write or read-modify-write always. -/
def partialRead (always : Bool) (hi lo index : Byte) (s : State) : Target :=
  (word hi lo + zext16 index,
    doIf (always || crosses lo index) (fun s => (rd (partialAddr hi lo index) s).2) s)

/-- Absolute indexed (R188, R189). -/
def eaAbsIndexed (always : Bool) (index : Byte) (s : State) : Target :=
  let lo := fetch s
  let hi := fetch lo.2
  partialRead always hi.1 lo.1 index hi.2

/-- Absolute,X, read class (R188). -/
def eaAbsxRead (s : State) : Target := eaAbsIndexed false s.cpu.x s

/-- Absolute,Y, read class (R188). -/
def eaAbsyRead (s : State) : Target := eaAbsIndexed false s.cpu.y s

/-- Absolute,X, write and read-modify-write classes (R189). -/
def eaAbsxWrite (s : State) : Target := eaAbsIndexed true s.cpu.x s

/-- Absolute,Y, write class (R189). -/
def eaAbsyWrite (s : State) : Target := eaAbsIndexed true s.cpu.y s

/-- Indexed indirect (zp,X): both pointer bytes are read in page zero (R190, R193). -/
def eaIndx (s : State) : Target :=
  let b := fetch s
  let p := b.1 + s.cpu.x
  let lo := rd (zext16 p) (rd (zext16 b.1) b.2).2
  let hi := rd (zext16 (p + 1)) lo.2
  (word hi.1 lo.1, hi.2)

/-- Indirect indexed (zp),Y: both pointer bytes are read in page zero (R191-R193). -/
def eaIndirectIndexed (always : Bool) (s : State) : Target :=
  let b := fetch s
  let lo := rd (zext16 b.1) b.2
  let hi := rd (zext16 (b.1 + 1)) lo.2
  partialRead always hi.1 lo.1 s.cpu.y hi.2

/-- (zp),Y, read class (R191). -/
def eaIndyRead (s : State) : Target := eaIndirectIndexed false s

/-- (zp),Y, write class (R192). -/
def eaIndyWrite (s : State) : Target := eaIndirectIndexed true s

/-! ### The access classes -/

/-- The read of M at an effective address, the last cycle of the read class (R181, R204). -/
def readAt (t : Target) : Got := rd t.1 (poll t.2)

/-- The operand M of the immediate mode (R184, R204). -/
def readImm (s : State) : Got := fetch (poll s)

/-- The write of a value at an effective address, the last cycle of the write class (R181, R204). -/
def writeAt (v : Byte) (t : Target) : State := wr t.1 v (poll t.2)

/-- The last three cycles of the read-modify-write class: M read, M written back, the result written; the flags after
the last cycle (R182, R204, R206). -/
def modifyAt (f : Byte → Flags → Result) (t : Target) : State :=
  let m := rd t.1 t.2
  let s1 := poll (wr t.1 m.1 m.2)
  let r := f m.1 s1.cpu.p
  setP r.2 (wr t.1 r.1 s1)

/-- The read class: M is read, then the operation computes from it (R181, R206). -/
def readOp (op : Byte → Regs → Regs) (m : Got) : State := mapRegs (op m.1) m.2

/-- The implied mode: the poll, the dummy read of the next byte, then the operation (R183, R204). -/
def impliedOp (op : Regs → Regs) (s : State) : State := mapRegs op (dummyFetch (poll s))

/-- The accumulator mode of a shift (R183, R310-R313). -/
def modifyA (f : Byte → Flags → Result) (r : Regs) : Regs :=
  let k := f r.a r.p
  { r with a := k.1, p := k.2 }

end Sys2Proof.Machine
end

