-- ==== Sys2Proof/Machine/ArithLogic.lean ====
section
/-!
DEFINITION. Arithmetic, logic, compare, increment and decrement (R270-R285).
-/

namespace Sys2Proof.Machine

/-- ADC immediate, 69 (R184, R271). -/
def execAdcImm (s : State) : Host.Outcome State Fault Refusal := finish (readOp addWithCarry (readImm s))

/-- ADC zero page, 65 (R185, R271). -/
def execAdcZp (s : State) : Host.Outcome State Fault Refusal := finish (readOp addWithCarry (readAt (eaZp s)))

/-- ADC zero page,X, 75 (R186, R271). -/
def execAdcZpx (s : State) : Host.Outcome State Fault Refusal := finish (readOp addWithCarry (readAt (eaZpx s)))

/-- ADC absolute, 6D (R187, R271). -/
def execAdcAbs (s : State) : Host.Outcome State Fault Refusal := finish (readOp addWithCarry (readAt (eaAbs s)))

/-- ADC absolute,X, 7D (R188, R271). -/
def execAdcAbsx (s : State) : Host.Outcome State Fault Refusal := finish (readOp addWithCarry (readAt (eaAbsxRead s)))

/-- ADC absolute,Y, 79 (R188, R271). -/
def execAdcAbsy (s : State) : Host.Outcome State Fault Refusal := finish (readOp addWithCarry (readAt (eaAbsyRead s)))

/-- ADC (zero page,X), 61 (R190, R271). -/
def execAdcIndx (s : State) : Host.Outcome State Fault Refusal := finish (readOp addWithCarry (readAt (eaIndx s)))

/-- ADC (zero page),Y, 71 (R191, R271). -/
def execAdcIndy (s : State) : Host.Outcome State Fault Refusal := finish (readOp addWithCarry (readAt (eaIndyRead s)))

/-- SBC immediate, E9 (R184, R272). -/
def execSbcImm (s : State) : Host.Outcome State Fault Refusal := finish (readOp subtractWithBorrow (readImm s))

/-- SBC zero page, E5 (R185, R272). -/
def execSbcZp (s : State) : Host.Outcome State Fault Refusal := finish (readOp subtractWithBorrow (readAt (eaZp s)))

/-- SBC zero page,X, F5 (R186, R272). -/
def execSbcZpx (s : State) : Host.Outcome State Fault Refusal := finish (readOp subtractWithBorrow (readAt (eaZpx s)))

/-- SBC absolute, ED (R187, R272). -/
def execSbcAbs (s : State) : Host.Outcome State Fault Refusal := finish (readOp subtractWithBorrow (readAt (eaAbs s)))

/-- SBC absolute,X, FD (R188, R272). -/
def execSbcAbsx (s : State) : Host.Outcome State Fault Refusal :=
  finish (readOp subtractWithBorrow (readAt (eaAbsxRead s)))

/-- SBC absolute,Y, F9 (R188, R272). -/
def execSbcAbsy (s : State) : Host.Outcome State Fault Refusal :=
  finish (readOp subtractWithBorrow (readAt (eaAbsyRead s)))

/-- SBC (zero page,X), E1 (R190, R272). -/
def execSbcIndx (s : State) : Host.Outcome State Fault Refusal := finish (readOp subtractWithBorrow (readAt (eaIndx s)))

/-- SBC (zero page),Y, F1 (R191, R272). -/
def execSbcIndy (s : State) : Host.Outcome State Fault Refusal :=
  finish (readOp subtractWithBorrow (readAt (eaIndyRead s)))

/-- AND immediate, 29 (R184, R273). -/
def execAndImm (s : State) : Host.Outcome State Fault Refusal := finish (readOp andA (readImm s))

/-- AND zero page, 25 (R185, R273). -/
def execAndZp (s : State) : Host.Outcome State Fault Refusal := finish (readOp andA (readAt (eaZp s)))

/-- AND zero page,X, 35 (R186, R273). -/
def execAndZpx (s : State) : Host.Outcome State Fault Refusal := finish (readOp andA (readAt (eaZpx s)))

/-- AND absolute, 2D (R187, R273). -/
def execAndAbs (s : State) : Host.Outcome State Fault Refusal := finish (readOp andA (readAt (eaAbs s)))

/-- AND absolute,X, 3D (R188, R273). -/
def execAndAbsx (s : State) : Host.Outcome State Fault Refusal := finish (readOp andA (readAt (eaAbsxRead s)))

/-- AND absolute,Y, 39 (R188, R273). -/
def execAndAbsy (s : State) : Host.Outcome State Fault Refusal := finish (readOp andA (readAt (eaAbsyRead s)))

/-- AND (zero page,X), 21 (R190, R273). -/
def execAndIndx (s : State) : Host.Outcome State Fault Refusal := finish (readOp andA (readAt (eaIndx s)))

/-- AND (zero page),Y, 31 (R191, R273). -/
def execAndIndy (s : State) : Host.Outcome State Fault Refusal := finish (readOp andA (readAt (eaIndyRead s)))

/-- ORA immediate, 09 (R184, R274). -/
def execOraImm (s : State) : Host.Outcome State Fault Refusal := finish (readOp orA (readImm s))

/-- ORA zero page, 05 (R185, R274). -/
def execOraZp (s : State) : Host.Outcome State Fault Refusal := finish (readOp orA (readAt (eaZp s)))

/-- ORA zero page,X, 15 (R186, R274). -/
def execOraZpx (s : State) : Host.Outcome State Fault Refusal := finish (readOp orA (readAt (eaZpx s)))

/-- ORA absolute, 0D (R187, R274). -/
def execOraAbs (s : State) : Host.Outcome State Fault Refusal := finish (readOp orA (readAt (eaAbs s)))

/-- ORA absolute,X, 1D (R188, R274). -/
def execOraAbsx (s : State) : Host.Outcome State Fault Refusal := finish (readOp orA (readAt (eaAbsxRead s)))

/-- ORA absolute,Y, 19 (R188, R274). -/
def execOraAbsy (s : State) : Host.Outcome State Fault Refusal := finish (readOp orA (readAt (eaAbsyRead s)))

/-- ORA (zero page,X), 01 (R190, R274). -/
def execOraIndx (s : State) : Host.Outcome State Fault Refusal := finish (readOp orA (readAt (eaIndx s)))

/-- ORA (zero page),Y, 11 (R191, R274). -/
def execOraIndy (s : State) : Host.Outcome State Fault Refusal := finish (readOp orA (readAt (eaIndyRead s)))

/-- EOR immediate, 49 (R184, R275). -/
def execEorImm (s : State) : Host.Outcome State Fault Refusal := finish (readOp xorA (readImm s))

/-- EOR zero page, 45 (R185, R275). -/
def execEorZp (s : State) : Host.Outcome State Fault Refusal := finish (readOp xorA (readAt (eaZp s)))

/-- EOR zero page,X, 55 (R186, R275). -/
def execEorZpx (s : State) : Host.Outcome State Fault Refusal := finish (readOp xorA (readAt (eaZpx s)))

/-- EOR absolute, 4D (R187, R275). -/
def execEorAbs (s : State) : Host.Outcome State Fault Refusal := finish (readOp xorA (readAt (eaAbs s)))

/-- EOR absolute,X, 5D (R188, R275). -/
def execEorAbsx (s : State) : Host.Outcome State Fault Refusal := finish (readOp xorA (readAt (eaAbsxRead s)))

/-- EOR absolute,Y, 59 (R188, R275). -/
def execEorAbsy (s : State) : Host.Outcome State Fault Refusal := finish (readOp xorA (readAt (eaAbsyRead s)))

/-- EOR (zero page,X), 41 (R190, R275). -/
def execEorIndx (s : State) : Host.Outcome State Fault Refusal := finish (readOp xorA (readAt (eaIndx s)))

/-- EOR (zero page),Y, 51 (R191, R275). -/
def execEorIndy (s : State) : Host.Outcome State Fault Refusal := finish (readOp xorA (readAt (eaIndyRead s)))

/-- CMP immediate, C9 (R184, R276). -/
def execCmpImm (s : State) : Host.Outcome State Fault Refusal := finish (readOp compareA (readImm s))

/-- CMP zero page, C5 (R185, R276). -/
def execCmpZp (s : State) : Host.Outcome State Fault Refusal := finish (readOp compareA (readAt (eaZp s)))

/-- CMP zero page,X, D5 (R186, R276). -/
def execCmpZpx (s : State) : Host.Outcome State Fault Refusal := finish (readOp compareA (readAt (eaZpx s)))

/-- CMP absolute, CD (R187, R276). -/
def execCmpAbs (s : State) : Host.Outcome State Fault Refusal := finish (readOp compareA (readAt (eaAbs s)))

/-- CMP absolute,X, DD (R188, R276). -/
def execCmpAbsx (s : State) : Host.Outcome State Fault Refusal := finish (readOp compareA (readAt (eaAbsxRead s)))

/-- CMP absolute,Y, D9 (R188, R276). -/
def execCmpAbsy (s : State) : Host.Outcome State Fault Refusal := finish (readOp compareA (readAt (eaAbsyRead s)))

/-- CMP (zero page,X), C1 (R190, R276). -/
def execCmpIndx (s : State) : Host.Outcome State Fault Refusal := finish (readOp compareA (readAt (eaIndx s)))

/-- CMP (zero page),Y, D1 (R191, R276). -/
def execCmpIndy (s : State) : Host.Outcome State Fault Refusal := finish (readOp compareA (readAt (eaIndyRead s)))

/-- CPX immediate, E0 (R184, R277). -/
def execCpxImm (s : State) : Host.Outcome State Fault Refusal := finish (readOp compareX (readImm s))

/-- CPX zero page, E4 (R185, R277). -/
def execCpxZp (s : State) : Host.Outcome State Fault Refusal := finish (readOp compareX (readAt (eaZp s)))

/-- CPX absolute, EC (R187, R277). -/
def execCpxAbs (s : State) : Host.Outcome State Fault Refusal := finish (readOp compareX (readAt (eaAbs s)))

/-- CPY immediate, C0 (R184, R278). -/
def execCpyImm (s : State) : Host.Outcome State Fault Refusal := finish (readOp compareY (readImm s))

/-- CPY zero page, C4 (R185, R278). -/
def execCpyZp (s : State) : Host.Outcome State Fault Refusal := finish (readOp compareY (readAt (eaZp s)))

/-- CPY absolute, CC (R187, R278). -/
def execCpyAbs (s : State) : Host.Outcome State Fault Refusal := finish (readOp compareY (readAt (eaAbs s)))

/-- BIT zero page, 24 (R185, R279). -/
def execBitZp (s : State) : Host.Outcome State Fault Refusal := finish (readOp testBits (readAt (eaZp s)))

/-- BIT absolute, 2C (R187, R279). -/
def execBitAbs (s : State) : Host.Outcome State Fault Refusal := finish (readOp testBits (readAt (eaAbs s)))

/-- INC zero page, E6 (R185, R280). -/
def execIncZp (s : State) : Host.Outcome State Fault Refusal := finish (modifyAt incByte (eaZp s))

/-- INC zero page,X, F6 (R186, R280). -/
def execIncZpx (s : State) : Host.Outcome State Fault Refusal := finish (modifyAt incByte (eaZpx s))

/-- INC absolute, EE (R187, R280). -/
def execIncAbs (s : State) : Host.Outcome State Fault Refusal := finish (modifyAt incByte (eaAbs s))

/-- INC absolute,X, FE (R189, R280). -/
def execIncAbsx (s : State) : Host.Outcome State Fault Refusal := finish (modifyAt incByte (eaAbsxWrite s))

/-- DEC zero page, C6 (R185, R281). -/
def execDecZp (s : State) : Host.Outcome State Fault Refusal := finish (modifyAt decByte (eaZp s))

/-- DEC zero page,X, D6 (R186, R281). -/
def execDecZpx (s : State) : Host.Outcome State Fault Refusal := finish (modifyAt decByte (eaZpx s))

/-- DEC absolute, CE (R187, R281). -/
def execDecAbs (s : State) : Host.Outcome State Fault Refusal := finish (modifyAt decByte (eaAbs s))

/-- DEC absolute,X, DE (R189, R281). -/
def execDecAbsx (s : State) : Host.Outcome State Fault Refusal := finish (modifyAt decByte (eaAbsxWrite s))

/-- INX, E8 (R183, R282). -/
def execInx (s : State) : Host.Outcome State Fault Refusal := finish (impliedOp (fun r => loadX (r.x + 1) r) s)

/-- INY, C8 (R183, R283). -/
def execIny (s : State) : Host.Outcome State Fault Refusal := finish (impliedOp (fun r => loadY (r.y + 1) r) s)

/-- DEX, CA (R183, R284). -/
def execDex (s : State) : Host.Outcome State Fault Refusal := finish (impliedOp (fun r => loadX (r.x - 1) r) s)

/-- DEY, 88 (R183, R285). -/
def execDey (s : State) : Host.Outcome State Fault Refusal := finish (impliedOp (fun r => loadY (r.y - 1) r) s)

end Sys2Proof.Machine
end

