-- ==== Sys2Proof/Machine/Control.lean ====
section
/-!
DEFINITION. Jumps, subroutines and branches (R330-R341; sequences R194-R199, poll points R204, R205).
-/

namespace Sys2Proof.Machine

/-- JMP absolute, 4C (R195, R330). -/
def execJmpAbs (s : State) : Host.Outcome State Fault Refusal :=
  let lo := fetch s
  let hi := rd lo.2.cpu.pc (poll lo.2)
  finish (setPc (word hi.1 lo.1) hi.2)

/-- JMP indirect, 6C: no carry into the pointer's high byte (R196, R197, R330). -/
def execJmpInd (s : State) : Host.Outcome State Fault Refusal :=
  let p := fetch s
  let q := fetch p.2
  let lo := rd (word q.1 p.1) q.2
  let hi := rd (word q.1 (p.1 + 1)) (poll lo.2)
  finish (setPc (word hi.1 lo.1) hi.2)

/-- JSR, 20: the target's high byte is read after the pushes (R198, R331). -/
def execJsr (s : State) : Host.Outcome State Fault Refusal :=
  let lo := fetch s
  let s3 := dummyStack lo.2
  let s4 := push (hi8 s3.cpu.pc) s3
  let s5 := poll (push (lo8 s4.cpu.pc) s4)
  let hi := rd s5.cpu.pc s5
  finish (setPc (word hi.1 lo.1) hi.2)

/-- RTS, 60 (R199, R332). -/
def execRts (s : State) : Host.Outcome State Fault Refusal :=
  let s3 := incS (dummyStack (dummyFetch s))
  let lo := readStack s3
  let hi := readStack (incS lo.2)
  finish (fetch (poll (setPc (word hi.1 lo.1) hi.2))).2

/-- The operation of every branch on its condition (R194, R205, R333): polls after cycle 1, and after cycle 3 when it
is taken across a page. -/
def branch (taken : Bool) (s : State) : State :=
  let b := fetch (poll s)
  let next := b.2.cpu.pc
  let target := next + sext16 b.1
  if taken then
    let s3 := dummyFetch b.2
    if hi8 target = hi8 next then setPc target s3
    else setPc target (rd (word (hi8 next) (lo8 target)) (poll s3)).2
  else b.2

/-- BPL, 10 (R334). -/
def execBpl (s : State) : Host.Outcome State Fault Refusal := finish (branch (!s.cpu.p.n) s)

/-- BMI, 30 (R335). -/
def execBmi (s : State) : Host.Outcome State Fault Refusal := finish (branch s.cpu.p.n s)

/-- BVC, 50 (R336). -/
def execBvc (s : State) : Host.Outcome State Fault Refusal := finish (branch (!s.cpu.p.v) s)

/-- BVS, 70 (R337). -/
def execBvs (s : State) : Host.Outcome State Fault Refusal := finish (branch s.cpu.p.v s)

/-- BCC, 90 (R338). -/
def execBcc (s : State) : Host.Outcome State Fault Refusal := finish (branch (!s.cpu.p.c) s)

/-- BCS, B0 (R339). -/
def execBcs (s : State) : Host.Outcome State Fault Refusal := finish (branch s.cpu.p.c s)

/-- BNE, D0 (R340). -/
def execBne (s : State) : Host.Outcome State Fault Refusal := finish (branch (!s.cpu.p.z) s)

/-- BEQ, F0 (R341). -/
def execBeq (s : State) : Host.Outcome State Fault Refusal := finish (branch s.cpu.p.z s)

end Sys2Proof.Machine
end

