-- ==== Sys2Proof/Machine/LoadStore.lean ====
section
/-!
DEFINITION. Loads, stores and register transfers (R240-R251).
-/

namespace Sys2Proof.Machine

/-- LDA immediate, A9 (R184, R240). -/
def execLdaImm (s : State) : Host.Outcome State Fault Refusal := finish (readOp loadA (readImm s))

/-- LDA zero page, A5 (R185, R240). -/
def execLdaZp (s : State) : Host.Outcome State Fault Refusal := finish (readOp loadA (readAt (eaZp s)))

/-- LDA zero page,X, B5 (R186, R240). -/
def execLdaZpx (s : State) : Host.Outcome State Fault Refusal := finish (readOp loadA (readAt (eaZpx s)))

/-- LDA absolute, AD (R187, R240). -/
def execLdaAbs (s : State) : Host.Outcome State Fault Refusal := finish (readOp loadA (readAt (eaAbs s)))

/-- LDA absolute,X, BD (R188, R240). -/
def execLdaAbsx (s : State) : Host.Outcome State Fault Refusal := finish (readOp loadA (readAt (eaAbsxRead s)))

/-- LDA absolute,Y, B9 (R188, R240). -/
def execLdaAbsy (s : State) : Host.Outcome State Fault Refusal := finish (readOp loadA (readAt (eaAbsyRead s)))

/-- LDA (zero page,X), A1 (R190, R240). -/
def execLdaIndx (s : State) : Host.Outcome State Fault Refusal := finish (readOp loadA (readAt (eaIndx s)))

/-- LDA (zero page),Y, B1 (R191, R240). -/
def execLdaIndy (s : State) : Host.Outcome State Fault Refusal := finish (readOp loadA (readAt (eaIndyRead s)))

/-- LDX immediate, A2 (R184, R241). -/
def execLdxImm (s : State) : Host.Outcome State Fault Refusal := finish (readOp loadX (readImm s))

/-- LDX zero page, A6 (R185, R241). -/
def execLdxZp (s : State) : Host.Outcome State Fault Refusal := finish (readOp loadX (readAt (eaZp s)))

/-- LDX zero page,Y, B6 (R186, R241). -/
def execLdxZpy (s : State) : Host.Outcome State Fault Refusal := finish (readOp loadX (readAt (eaZpy s)))

/-- LDX absolute, AE (R187, R241). -/
def execLdxAbs (s : State) : Host.Outcome State Fault Refusal := finish (readOp loadX (readAt (eaAbs s)))

/-- LDX absolute,Y, BE (R188, R241). -/
def execLdxAbsy (s : State) : Host.Outcome State Fault Refusal := finish (readOp loadX (readAt (eaAbsyRead s)))

/-- LDY immediate, A0 (R184, R242). -/
def execLdyImm (s : State) : Host.Outcome State Fault Refusal := finish (readOp loadY (readImm s))

/-- LDY zero page, A4 (R185, R242). -/
def execLdyZp (s : State) : Host.Outcome State Fault Refusal := finish (readOp loadY (readAt (eaZp s)))

/-- LDY zero page,X, B4 (R186, R242). -/
def execLdyZpx (s : State) : Host.Outcome State Fault Refusal := finish (readOp loadY (readAt (eaZpx s)))

/-- LDY absolute, AC (R187, R242). -/
def execLdyAbs (s : State) : Host.Outcome State Fault Refusal := finish (readOp loadY (readAt (eaAbs s)))

/-- LDY absolute,X, BC (R188, R242). -/
def execLdyAbsx (s : State) : Host.Outcome State Fault Refusal := finish (readOp loadY (readAt (eaAbsxRead s)))

/-- STA zero page, 85 (R185, R243). -/
def execStaZp (s : State) : Host.Outcome State Fault Refusal := finish (writeAt s.cpu.a (eaZp s))

/-- STA zero page,X, 95 (R186, R243). -/
def execStaZpx (s : State) : Host.Outcome State Fault Refusal := finish (writeAt s.cpu.a (eaZpx s))

/-- STA absolute, 8D (R187, R243). -/
def execStaAbs (s : State) : Host.Outcome State Fault Refusal := finish (writeAt s.cpu.a (eaAbs s))

/-- STA absolute,X, 9D (R189, R243). -/
def execStaAbsx (s : State) : Host.Outcome State Fault Refusal := finish (writeAt s.cpu.a (eaAbsxWrite s))

/-- STA absolute,Y, 99 (R189, R243). -/
def execStaAbsy (s : State) : Host.Outcome State Fault Refusal := finish (writeAt s.cpu.a (eaAbsyWrite s))

/-- STA (zero page,X), 81 (R190, R243). -/
def execStaIndx (s : State) : Host.Outcome State Fault Refusal := finish (writeAt s.cpu.a (eaIndx s))

/-- STA (zero page),Y, 91 (R192, R243). -/
def execStaIndy (s : State) : Host.Outcome State Fault Refusal := finish (writeAt s.cpu.a (eaIndyWrite s))

/-- STX zero page, 86 (R185, R244). -/
def execStxZp (s : State) : Host.Outcome State Fault Refusal := finish (writeAt s.cpu.x (eaZp s))

/-- STX zero page,Y, 96 (R186, R244). -/
def execStxZpy (s : State) : Host.Outcome State Fault Refusal := finish (writeAt s.cpu.x (eaZpy s))

/-- STX absolute, 8E (R187, R244). -/
def execStxAbs (s : State) : Host.Outcome State Fault Refusal := finish (writeAt s.cpu.x (eaAbs s))

/-- STY zero page, 84 (R185, R245). -/
def execStyZp (s : State) : Host.Outcome State Fault Refusal := finish (writeAt s.cpu.y (eaZp s))

/-- STY zero page,X, 94 (R186, R245). -/
def execStyZpx (s : State) : Host.Outcome State Fault Refusal := finish (writeAt s.cpu.y (eaZpx s))

/-- STY absolute, 8C (R187, R245). -/
def execStyAbs (s : State) : Host.Outcome State Fault Refusal := finish (writeAt s.cpu.y (eaAbs s))

/-- TAX, AA (R183, R246). -/
def execTax (s : State) : Host.Outcome State Fault Refusal := finish (impliedOp (fun r => loadX r.a r) s)

/-- TAY, A8 (R183, R247). -/
def execTay (s : State) : Host.Outcome State Fault Refusal := finish (impliedOp (fun r => loadY r.a r) s)

/-- TXA, 8A (R183, R248). -/
def execTxa (s : State) : Host.Outcome State Fault Refusal := finish (impliedOp (fun r => loadA r.x r) s)

/-- TYA, 98 (R183, R249). -/
def execTya (s : State) : Host.Outcome State Fault Refusal := finish (impliedOp (fun r => loadA r.y r) s)

/-- TSX, BA (R183, R250). -/
def execTsx (s : State) : Host.Outcome State Fault Refusal := finish (impliedOp (fun r => loadX r.s r) s)

/-- TXS, 9A (R183, R251). -/
def execTxs (s : State) : Host.Outcome State Fault Refusal := finish (impliedOp (fun r => { r with s := r.x }) s)

end Sys2Proof.Machine
end

