-- ==== Sys2Proof/Machine/Shift.lean ====
section
/-!
DEFINITION. Shifts and rotates (R310-R313).
-/

namespace Sys2Proof.Machine

/-- ASL accumulator, 0A (R183, R310). -/
def execAslAcc (s : State) : Host.Outcome State Fault Refusal := finish (impliedOp (modifyA aslByte) s)

/-- ASL zero page, 06 (R185, R310). -/
def execAslZp (s : State) : Host.Outcome State Fault Refusal := finish (modifyAt aslByte (eaZp s))

/-- ASL zero page,X, 16 (R186, R310). -/
def execAslZpx (s : State) : Host.Outcome State Fault Refusal := finish (modifyAt aslByte (eaZpx s))

/-- ASL absolute, 0E (R187, R310). -/
def execAslAbs (s : State) : Host.Outcome State Fault Refusal := finish (modifyAt aslByte (eaAbs s))

/-- ASL absolute,X, 1E (R189, R310). -/
def execAslAbsx (s : State) : Host.Outcome State Fault Refusal := finish (modifyAt aslByte (eaAbsxWrite s))

/-- LSR accumulator, 4A (R183, R311). -/
def execLsrAcc (s : State) : Host.Outcome State Fault Refusal := finish (impliedOp (modifyA lsrByte) s)

/-- LSR zero page, 46 (R185, R311). -/
def execLsrZp (s : State) : Host.Outcome State Fault Refusal := finish (modifyAt lsrByte (eaZp s))

/-- LSR zero page,X, 56 (R186, R311). -/
def execLsrZpx (s : State) : Host.Outcome State Fault Refusal := finish (modifyAt lsrByte (eaZpx s))

/-- LSR absolute, 4E (R187, R311). -/
def execLsrAbs (s : State) : Host.Outcome State Fault Refusal := finish (modifyAt lsrByte (eaAbs s))

/-- LSR absolute,X, 5E (R189, R311). -/
def execLsrAbsx (s : State) : Host.Outcome State Fault Refusal := finish (modifyAt lsrByte (eaAbsxWrite s))

/-- ROL accumulator, 2A (R183, R312). -/
def execRolAcc (s : State) : Host.Outcome State Fault Refusal := finish (impliedOp (modifyA rolByte) s)

/-- ROL zero page, 26 (R185, R312). -/
def execRolZp (s : State) : Host.Outcome State Fault Refusal := finish (modifyAt rolByte (eaZp s))

/-- ROL zero page,X, 36 (R186, R312). -/
def execRolZpx (s : State) : Host.Outcome State Fault Refusal := finish (modifyAt rolByte (eaZpx s))

/-- ROL absolute, 2E (R187, R312). -/
def execRolAbs (s : State) : Host.Outcome State Fault Refusal := finish (modifyAt rolByte (eaAbs s))

/-- ROL absolute,X, 3E (R189, R312). -/
def execRolAbsx (s : State) : Host.Outcome State Fault Refusal := finish (modifyAt rolByte (eaAbsxWrite s))

/-- ROR accumulator, 6A (R183, R313). -/
def execRorAcc (s : State) : Host.Outcome State Fault Refusal := finish (impliedOp (modifyA rorByte) s)

/-- ROR zero page, 66 (R185, R313). -/
def execRorZp (s : State) : Host.Outcome State Fault Refusal := finish (modifyAt rorByte (eaZp s))

/-- ROR zero page,X, 76 (R186, R313). -/
def execRorZpx (s : State) : Host.Outcome State Fault Refusal := finish (modifyAt rorByte (eaZpx s))

/-- ROR absolute, 6E (R187, R313). -/
def execRorAbs (s : State) : Host.Outcome State Fault Refusal := finish (modifyAt rorByte (eaAbs s))

/-- ROR absolute,X, 7E (R189, R313). -/
def execRorAbsx (s : State) : Host.Outcome State Fault Refusal := finish (modifyAt rorByte (eaAbsxWrite s))

end Sys2Proof.Machine
end

