-- ==== Sys2Proof/Machine/StackSystem.lean ====
section
/-!
DEFINITION. Stack, flag and system instructions, and the unassigned bytes (R360-R373, R395; sequences R200-R203).
-/

namespace Sys2Proof.Machine

/-- PHA, 48 (R201, R360). -/
def execPha (s : State) : Host.Outcome State Fault Refusal := finish (push s.cpu.a (poll (dummyFetch s)))

/-- PHP, 08 (R201, R361). -/
def execPhp (s : State) : Host.Outcome State Fault Refusal :=
  finish (push (pushedImage true s.cpu.p) (poll (dummyFetch s)))

/-- The pull of a byte by PLA and PLP: the two dummy reads, the poll, the read at the top (R202, R204). -/
def pullByte (s : State) : Got := readStack (poll (incS (dummyStack (dummyFetch s))))

/-- PLA, 68 (R202, R362). -/
def execPla (s : State) : Host.Outcome State Fault Refusal := finish (readOp loadA (pullByte s))

/-- PLP, 28: P is written after the last cycle (R202, R206, R363). -/
def execPlp (s : State) : Host.Outcome State Fault Refusal :=
  let v := pullByte s
  finish (setP (pulledImage v.1) v.2)

/-- A flag instruction: one flag written after the dummy read (R183, R206). -/
def flagOp (f : Flags → Flags) (s : State) : State := impliedOp (fun r => { r with p := f r.p }) s

/-- CLC, 18 (R364). -/
def execClc (s : State) : Host.Outcome State Fault Refusal := finish (flagOp (fun p => { p with c := false }) s)

/-- SEC, 38 (R365). -/
def execSec (s : State) : Host.Outcome State Fault Refusal := finish (flagOp (fun p => { p with c := true }) s)

/-- CLI, 58 (R366). -/
def execCli (s : State) : Host.Outcome State Fault Refusal := finish (flagOp (fun p => { p with i := false }) s)

/-- SEI, 78 (R367). -/
def execSei (s : State) : Host.Outcome State Fault Refusal := finish (flagOp (fun p => { p with i := true }) s)

/-- CLD, D8 (R368). -/
def execCld (s : State) : Host.Outcome State Fault Refusal := finish (flagOp (fun p => { p with d := false }) s)

/-- SED, F8 (R369). -/
def execSed (s : State) : Host.Outcome State Fault Refusal := finish (flagOp (fun p => { p with d := true }) s)

/-- CLV, B8 (R370). -/
def execClv (s : State) : Host.Outcome State Fault Refusal := finish (flagOp (fun p => { p with v := false }) s)

/-- NOP, EA (R371). -/
def execNop (s : State) : Host.Outcome State Fault Refusal := finish (impliedOp id s)

/-- BRK, 00: the padding byte is read and skipped, then the unified dispatch with B = 1; it makes no poll (R203, R204,
R372, R405). -/
def execBrk (s : State) : Host.Outcome State Fault Refusal := finish (enterInterrupt true (fetch s).2)

/-- RTI, 40 (R200, R373). -/
def execRti (s : State) : Host.Outcome State Fault Refusal := finish (returnFromInterrupt (dummyFetch s))

/-- A byte outside the official set: the step refuses after the opcode fetch (R395). -/
def execUnassigned (op : Byte) (s : State) : Host.Outcome State Fault Refusal := finish (refuse (.unassignedOpcode op) s)

end Sys2Proof.Machine
end

