-- ==== Sys2Proof/Machine/Dispatch.lean ====
section
/-!
DEFINITION. The dispatch: one arm per constructor of Instr, each one call of its meaning.
-/

namespace Sys2Proof.Machine

def exec (i : Instr) (s : State) : Host.Outcome State Fault Refusal :=
  match i with
  | .ldaImm => Sys2Proof.Machine.execLdaImm s
  | .ldaZp => Sys2Proof.Machine.execLdaZp s
  | .ldaZpx => Sys2Proof.Machine.execLdaZpx s
  | .ldaAbs => Sys2Proof.Machine.execLdaAbs s
  | .ldaAbsx => Sys2Proof.Machine.execLdaAbsx s
  | .ldaAbsy => Sys2Proof.Machine.execLdaAbsy s
  | .ldaIndx => Sys2Proof.Machine.execLdaIndx s
  | .ldaIndy => Sys2Proof.Machine.execLdaIndy s
  | .ldxImm => Sys2Proof.Machine.execLdxImm s
  | .ldxZp => Sys2Proof.Machine.execLdxZp s
  | .ldxZpy => Sys2Proof.Machine.execLdxZpy s
  | .ldxAbs => Sys2Proof.Machine.execLdxAbs s
  | .ldxAbsy => Sys2Proof.Machine.execLdxAbsy s
  | .ldyImm => Sys2Proof.Machine.execLdyImm s
  | .ldyZp => Sys2Proof.Machine.execLdyZp s
  | .ldyZpx => Sys2Proof.Machine.execLdyZpx s
  | .ldyAbs => Sys2Proof.Machine.execLdyAbs s
  | .ldyAbsx => Sys2Proof.Machine.execLdyAbsx s
  | .staZp => Sys2Proof.Machine.execStaZp s
  | .staZpx => Sys2Proof.Machine.execStaZpx s
  | .staAbs => Sys2Proof.Machine.execStaAbs s
  | .staAbsx => Sys2Proof.Machine.execStaAbsx s
  | .staAbsy => Sys2Proof.Machine.execStaAbsy s
  | .staIndx => Sys2Proof.Machine.execStaIndx s
  | .staIndy => Sys2Proof.Machine.execStaIndy s
  | .stxZp => Sys2Proof.Machine.execStxZp s
  | .stxZpy => Sys2Proof.Machine.execStxZpy s
  | .stxAbs => Sys2Proof.Machine.execStxAbs s
  | .styZp => Sys2Proof.Machine.execStyZp s
  | .styZpx => Sys2Proof.Machine.execStyZpx s
  | .styAbs => Sys2Proof.Machine.execStyAbs s
  | .tax => Sys2Proof.Machine.execTax s
  | .tay => Sys2Proof.Machine.execTay s
  | .txa => Sys2Proof.Machine.execTxa s
  | .tya => Sys2Proof.Machine.execTya s
  | .tsx => Sys2Proof.Machine.execTsx s
  | .txs => Sys2Proof.Machine.execTxs s
  | .adcImm => Sys2Proof.Machine.execAdcImm s
  | .adcZp => Sys2Proof.Machine.execAdcZp s
  | .adcZpx => Sys2Proof.Machine.execAdcZpx s
  | .adcAbs => Sys2Proof.Machine.execAdcAbs s
  | .adcAbsx => Sys2Proof.Machine.execAdcAbsx s
  | .adcAbsy => Sys2Proof.Machine.execAdcAbsy s
  | .adcIndx => Sys2Proof.Machine.execAdcIndx s
  | .adcIndy => Sys2Proof.Machine.execAdcIndy s
  | .sbcImm => Sys2Proof.Machine.execSbcImm s
  | .sbcZp => Sys2Proof.Machine.execSbcZp s
  | .sbcZpx => Sys2Proof.Machine.execSbcZpx s
  | .sbcAbs => Sys2Proof.Machine.execSbcAbs s
  | .sbcAbsx => Sys2Proof.Machine.execSbcAbsx s
  | .sbcAbsy => Sys2Proof.Machine.execSbcAbsy s
  | .sbcIndx => Sys2Proof.Machine.execSbcIndx s
  | .sbcIndy => Sys2Proof.Machine.execSbcIndy s
  | .andImm => Sys2Proof.Machine.execAndImm s
  | .andZp => Sys2Proof.Machine.execAndZp s
  | .andZpx => Sys2Proof.Machine.execAndZpx s
  | .andAbs => Sys2Proof.Machine.execAndAbs s
  | .andAbsx => Sys2Proof.Machine.execAndAbsx s
  | .andAbsy => Sys2Proof.Machine.execAndAbsy s
  | .andIndx => Sys2Proof.Machine.execAndIndx s
  | .andIndy => Sys2Proof.Machine.execAndIndy s
  | .oraImm => Sys2Proof.Machine.execOraImm s
  | .oraZp => Sys2Proof.Machine.execOraZp s
  | .oraZpx => Sys2Proof.Machine.execOraZpx s
  | .oraAbs => Sys2Proof.Machine.execOraAbs s
  | .oraAbsx => Sys2Proof.Machine.execOraAbsx s
  | .oraAbsy => Sys2Proof.Machine.execOraAbsy s
  | .oraIndx => Sys2Proof.Machine.execOraIndx s
  | .oraIndy => Sys2Proof.Machine.execOraIndy s
  | .eorImm => Sys2Proof.Machine.execEorImm s
  | .eorZp => Sys2Proof.Machine.execEorZp s
  | .eorZpx => Sys2Proof.Machine.execEorZpx s
  | .eorAbs => Sys2Proof.Machine.execEorAbs s
  | .eorAbsx => Sys2Proof.Machine.execEorAbsx s
  | .eorAbsy => Sys2Proof.Machine.execEorAbsy s
  | .eorIndx => Sys2Proof.Machine.execEorIndx s
  | .eorIndy => Sys2Proof.Machine.execEorIndy s
  | .cmpImm => Sys2Proof.Machine.execCmpImm s
  | .cmpZp => Sys2Proof.Machine.execCmpZp s
  | .cmpZpx => Sys2Proof.Machine.execCmpZpx s
  | .cmpAbs => Sys2Proof.Machine.execCmpAbs s
  | .cmpAbsx => Sys2Proof.Machine.execCmpAbsx s
  | .cmpAbsy => Sys2Proof.Machine.execCmpAbsy s
  | .cmpIndx => Sys2Proof.Machine.execCmpIndx s
  | .cmpIndy => Sys2Proof.Machine.execCmpIndy s
  | .cpxImm => Sys2Proof.Machine.execCpxImm s
  | .cpxZp => Sys2Proof.Machine.execCpxZp s
  | .cpxAbs => Sys2Proof.Machine.execCpxAbs s
  | .cpyImm => Sys2Proof.Machine.execCpyImm s
  | .cpyZp => Sys2Proof.Machine.execCpyZp s
  | .cpyAbs => Sys2Proof.Machine.execCpyAbs s
  | .bitZp => Sys2Proof.Machine.execBitZp s
  | .bitAbs => Sys2Proof.Machine.execBitAbs s
  | .incZp => Sys2Proof.Machine.execIncZp s
  | .incZpx => Sys2Proof.Machine.execIncZpx s
  | .incAbs => Sys2Proof.Machine.execIncAbs s
  | .incAbsx => Sys2Proof.Machine.execIncAbsx s
  | .decZp => Sys2Proof.Machine.execDecZp s
  | .decZpx => Sys2Proof.Machine.execDecZpx s
  | .decAbs => Sys2Proof.Machine.execDecAbs s
  | .decAbsx => Sys2Proof.Machine.execDecAbsx s
  | .inx => Sys2Proof.Machine.execInx s
  | .iny => Sys2Proof.Machine.execIny s
  | .dex => Sys2Proof.Machine.execDex s
  | .dey => Sys2Proof.Machine.execDey s
  | .aslAcc => Sys2Proof.Machine.execAslAcc s
  | .aslZp => Sys2Proof.Machine.execAslZp s
  | .aslZpx => Sys2Proof.Machine.execAslZpx s
  | .aslAbs => Sys2Proof.Machine.execAslAbs s
  | .aslAbsx => Sys2Proof.Machine.execAslAbsx s
  | .lsrAcc => Sys2Proof.Machine.execLsrAcc s
  | .lsrZp => Sys2Proof.Machine.execLsrZp s
  | .lsrZpx => Sys2Proof.Machine.execLsrZpx s
  | .lsrAbs => Sys2Proof.Machine.execLsrAbs s
  | .lsrAbsx => Sys2Proof.Machine.execLsrAbsx s
  | .rolAcc => Sys2Proof.Machine.execRolAcc s
  | .rolZp => Sys2Proof.Machine.execRolZp s
  | .rolZpx => Sys2Proof.Machine.execRolZpx s
  | .rolAbs => Sys2Proof.Machine.execRolAbs s
  | .rolAbsx => Sys2Proof.Machine.execRolAbsx s
  | .rorAcc => Sys2Proof.Machine.execRorAcc s
  | .rorZp => Sys2Proof.Machine.execRorZp s
  | .rorZpx => Sys2Proof.Machine.execRorZpx s
  | .rorAbs => Sys2Proof.Machine.execRorAbs s
  | .rorAbsx => Sys2Proof.Machine.execRorAbsx s
  | .jmpAbs => Sys2Proof.Machine.execJmpAbs s
  | .jmpInd => Sys2Proof.Machine.execJmpInd s
  | .jsr => Sys2Proof.Machine.execJsr s
  | .rts => Sys2Proof.Machine.execRts s
  | .bpl => Sys2Proof.Machine.execBpl s
  | .bmi => Sys2Proof.Machine.execBmi s
  | .bvc => Sys2Proof.Machine.execBvc s
  | .bvs => Sys2Proof.Machine.execBvs s
  | .bcc => Sys2Proof.Machine.execBcc s
  | .bcs => Sys2Proof.Machine.execBcs s
  | .bne => Sys2Proof.Machine.execBne s
  | .beq => Sys2Proof.Machine.execBeq s
  | .pha => Sys2Proof.Machine.execPha s
  | .php => Sys2Proof.Machine.execPhp s
  | .pla => Sys2Proof.Machine.execPla s
  | .plp => Sys2Proof.Machine.execPlp s
  | .clc => Sys2Proof.Machine.execClc s
  | .sec => Sys2Proof.Machine.execSec s
  | .cli => Sys2Proof.Machine.execCli s
  | .sei => Sys2Proof.Machine.execSei s
  | .cld => Sys2Proof.Machine.execCld s
  | .sed => Sys2Proof.Machine.execSed s
  | .clv => Sys2Proof.Machine.execClv s
  | .nop => Sys2Proof.Machine.execNop s
  | .brk => Sys2Proof.Machine.execBrk s
  | .rti => Sys2Proof.Machine.execRti s
  | .unassigned op => Sys2Proof.Machine.execUnassigned op s

end Sys2Proof.Machine
end

