-- ==== Sys2Proof/Machine/HostCalls.lean ====
section
/-!
DEFINITION. What the host can do: load a cartridge, power on, and act between two steps (R560, R620-R622, R640-R642).
`run_for` is in Step.lean, beside the step it repeats. No step makes a host call (DESIGN CHOICE, log 14).
-/

namespace Sys2Proof.Machine

/-- The mirroring a cartridge container can ask for (R560, D36). -/
inductive ContainerMirroring where
  | horizontal
  | vertical
  | fourScreen
deriving DecidableEq, Repr

/-- The cartridge as the host hands it over: "already-decoded bank images, counts, mapper id, and mirroring mode". -/
structure CartridgeInput where
  mapperId : Nat
  mirroring : ContainerMirroring
  prg : Mem
  prgBanks : Nat
  chr : Mem
  chrBanks : Nat
  /-- `PRG_RAM_INIT` (R573). -/
  prgRam : Mem
  /-- `CHR_RAM_INIT` (R574). -/
  chrRam : Mem
deriving DecidableEq, Repr

/-- Why a cartridge is rejected at load time (R560, D36). -/
inductive LoadError where
  | unsupportedMapper (id : Nat)
  | fourScreenMirroring
  | noProgramBank
deriving DecidableEq, Repr

/-- The policy of a mapper id, when it is in `SUPPORTED_MAPPERS` (R560; DESIGN CHOICE, log 11). -/
def mapperOfId (id : Nat) : Option Mapper :=
  if id = 0 then some .fixed
  else if id = 1 then some .shiftRegister
  else if id = 2 then some .lowSwitch
  else if id = 3 then some .graphicsSwitch
  else if id = Config.highSwitchMapperId then some .highSwitch
  else none

/-- A cartridge at power-on with a policy and a mirroring (R571, R575). -/
def freshCartridge (m : Mapper) (h : HeaderMirroring) (k : CartridgeInput) : Cartridge :=
  { Cartridge.reset with
    mapper := m
    headerMirroring := h
    prg := k.prg
    prgBanks := k.prgBanks
    chr := k.chr
    chrBanks := k.chrBanks
    prgRam := k.prgRam
    chrRam := k.chrRam }

/-- The loader: another mapper id, four-screen mirroring and no program bank are rejected (R560, D36). Any other number of
program banks is accepted, also for ids 0 and 3, whose rules speak of one or two (DESIGN CHOICE, log 18). -/
def loadCartridge (k : CartridgeInput) : Except LoadError Cartridge :=
  match mapperOfId k.mapperId, k.mirroring with
  | none, _ => .error (.unsupportedMapper k.mapperId)
  | some _, .fourScreen => .error .fourScreenMirroring
  | some m, .horizontal =>
    if k.prgBanks = 0 then .error .noProgramBank else .ok (freshCartridge m .horizontal k)
  | some m, .vertical => if k.prgBanks = 0 then .error .noProgramBank else .ok (freshCartridge m .vertical k)

/-- A loaded cartridge at power-on: the host's images, shape and RAM, and the registers of R571 and R575 whatever they
held before. -/
def Cartridge.atPowerOn (c : Cartridge) : Cartridge :=
  { Cartridge.reset with
    mapper := c.mapper
    headerMirroring := c.headerMirroring
    prg := c.prg
    prgBanks := c.prgBanks
    chr := c.chr
    chrBanks := c.chrBanks
    prgRam := c.prgRam
    chrRam := c.chrRam }

/-- What a session starts from: the cartridge, the open contents of the memories, the parameters, the buttons and
the oracle's first answer (R11, R642). -/
structure PowerOnInputs where
  /-- The loaded cartridge; power-on sets its registers (R575). -/
  cart : Cartridge
  /-- `RAM_INIT` (R57). -/
  ram : Mem
  /-- `OAM_INIT` (R453). -/
  oam : Mem
  /-- `CIRAM_INIT` (R454). -/
  ciram : Mem
  /-- `PALETTE_INIT` (R452). -/
  palette : Cells 6
  cfg : Params
  buttons0 : Byte
  buttons1 : Byte
  irqTime : Option Nat
deriving DecidableEq, Repr

/-- The inputs of the model's `State.reset`: nothing listed, defaults, nothing pressed, no interrupt (DESIGN CHOICE, logs 2, 5-9). -/
def PowerOnInputs.blank : PowerOnInputs where
  cart := Cartridge.reset
  ram := []
  oam := []
  ciram := []
  palette := []
  cfg := Params.default
  buttons0 := 0
  buttons1 := 0
  irqTime := none

/-- Every piece of state at its value of R621, before the reset dispatch. -/
def powerOnState (k : PowerOnInputs) : State :=
  { State.reset with
    cpu := { State.reset.cpu with s := 0, pc := 0 }
    clock := 0
    totalCycles := 0
    ram := k.ram
    ppu := { Ppu.reset with dot := 0, oam := k.oam, ciram := k.ciram, palette := k.palette }
    cart := k.cart.atPowerOn
    pads := { State.reset.pads with buttons0 := k.buttons0, buttons1 := k.buttons1 }
    audio := { events := [], irqTime := k.irqTime }
    cfg := k.cfg }

/-- `power_on()`: the values of R621, then the reset dispatch (R620). -/
def powerOn (k : PowerOnInputs) : State := resetDispatch (powerOnState k)

/-- `end_frame()`: the oracle is rebased and the clock restarts; nothing else changes (R641). -/
def endFrame (s : State) : State := { s with audio := s.audio.rebase s.clock, clock := 0 }

/-- The host clears `frame_complete` (R114, R640). -/
def clearFrameComplete (s : State) : State := { s with ppu := { s.ppu with frameComplete := false } }

/-- The host changes the button state (R642). -/
def setButtons (b0 b1 : Byte) (s : State) : State := { s with pads := { s.pads with buttons0 := b0, buttons1 := b1 } }

end Sys2Proof.Machine
end

