-- ==== Sys2Proof/Machine/Step.lean ====
section
/-!
DEFINITION. The step: one instruction with the DMA it starts, or one interrupt dispatch (R180), the host's `run_for`
(R641), and the placing of an instruction where the step fetches its next one.
-/

namespace Sys2Proof.Machine

/-- What the step does after the instruction's own cycles: the DMA it asked for (R180, R590). -/
def afterInstr (o : Host.Outcome State Fault Refusal) : Host.Outcome State Fault Refusal :=
  match o with
  | .next s => finish (runDma s)
  | .fault f => .fault f
  | .refused r => .refused r

/-- `execute_one_instruction()` (R180). The refusal mark is final (R17, R643). -/
def step (s : State) : Host.Outcome State Fault Refusal :=
  match s.refused with
  | some r => .refused r
  | none =>
    if s.intr.intDue then finish (interruptDispatch (clearDue s))
    else
      let op := fetch s
      afterInstr (exec (decodeOpcode op.1) op.2)

/-- `run_for` from the clock value `start`: steps until the clock has advanced by `n`, at most `fuel` of them (R641). A
step advances the clock by at least two, so `n` is fuel enough. -/
def runUntil (start n : Nat) : Nat → State → Host.Outcome State Fault Refusal
  | 0, s => .next s
  | fuel + 1, s =>
    if s.clock - start < n then
      match step s with
      | .next t => runUntil start n fuel t
      | .fault f => .fault f
      | .refused r => .refused r
    else .next s

/-- `run_for(n)` (R641). -/
def runFor (n : Nat) (s : State) : Host.Outcome State Fault Refusal := runUntil s.clock n n s

/-- Whether a CPU address holds a byte of memory that a host can place: work RAM, cartridge RAM or program memory. -/
def placeable (a : Addr) : Bool := a.toNat ≤ 0x1FFF || 0x6000 ≤ a.toNat

/-- The state with one byte placed in the memory at a CPU address: RAM, cartridge RAM or the program image. -/
def placeByte (a : Addr) (v : Byte) (s : State) : State :=
  if a.toNat ≤ 0x1FFF then { s with ram := writeCell s.ram (a.toNat % 0x800) v }
  else if a.toNat ≤ 0x5FFF then s
  else if a.toNat ≤ 0x7FFF then { s with cart := writePrgRam s.cart a v }
  else { s with cart := { s.cart with prg := writeCell s.cart.prg (programOffset s.cfg s.cart a) v } }

/-- The state with bytes placed at ascending addresses. -/
def placeBytes : Addr → List Byte → State → State
  | _, [], s => s
  | a, b :: bs, s => placeBytes (a + 1) bs (placeByte a b s)

/-- Where the step will fetch an instruction that is placed: the pc, or 0x0000 when one of the three bytes at the pc
lies in no memory (DESIGN CHOICE, log 8). -/
def placeAddr (s : State) : Addr :=
  let pc := s.cpu.pc
  if placeable pc && placeable (pc + 1) && placeable (pc + 2) then pc else 0

/-- The state whose next step fetches and runs the instruction of the opcode table's word `w` of `nbits` bits: its bytes
at the pc, no interrupt due, no refusal mark (DESIGN CHOICE, log 8). -/
def State.withFetchWord (s : State) (nbits w : Nat) : State :=
  let a := placeAddr s
  let s1 := placeBytes a (tableBytes nbits w) s
  clearDue (setPc a { s1 with refused := none })

end Sys2Proof.Machine
end

