-- ==== Sys2Proof/Safety.lean ====
section
/-!
DEFINITION. The terms of the claims: the invariant of the machine, when a stretch of cycles meets no refusal of R481, and
the operand forms and cycle counts of the instructions, written from R142, R183-R203 and R207.
-/

namespace Sys2Proof.Machine

/-! ### The invariant -/

/-- The memories of the PPU are in canonical form and of their sizes, and its counters are in range (R452-R457, R474,
R510). -/
def Ppu.inv (p : Ppu) : Bool :=
  Cells.wf p.oam && Cells.below p.oam 0x100 && Cells.wf p.ciram && Cells.below p.ciram 0x800 &&
    Cells.wf p.palette && Cells.below p.palette 0x20 && p.scanline ≤ 261 && p.dot ≤ 340 && p.decayTimer ≤ 7777 &&
    p.spr.count ≤ 8

/-- The memories of the cartridge are in canonical form and of their sizes, it has a program bank, and the serial
register of id 1 holds at most four bits (R560, R566, R573, R574). -/
def Cartridge.inv (c : Cartridge) : Bool :=
  Cells.wf c.prg && Cells.below c.prg (0x4000 * c.prgBanks) && Cells.wf c.chr &&
    Cells.below c.chr (0x2000 * c.chrBanks) && Cells.wf c.prgRam && Cells.below c.prgRam 0x2000 &&
    Cells.wf c.chrRam && Cells.below c.chrRam 0x2000 && c.shiftCount ≤ 4 && 1 ≤ c.prgBanks

/-- What holds of the machine between two steps: the memories as above, work RAM of its size (R57), the NMI line at the
level that the vblank flag and its enable give (R411), and no mapper write recorded in a later cycle (R567). -/
def State.inv (s : State) : Bool :=
  s.ppu.inv && s.cart.inv && Cells.wf s.ram && Cells.below s.ram 0x800 &&
    s.intr.nmiLine == (s.ppu.vblank && s.ppu.nmiEnable) && s.cart.lastWriteCycle.all (fun k => k ≤ s.totalCycles)

/-! ### When no access is refused -/

/-- The addresses of PPU registers 4 and 7, the only ones whose access can be refused (R93, R481). -/
def dataPort (a : Addr) : Bool :=
  0x2000 ≤ a.toNat && a.toNat ≤ 0x3FFF && (a.toNat % 8 = 4 || a.toNat % 8 = 7)

/-- Rendering is not active during the next `n` CPU cycles: it is disabled, or their 3n dots lie on lines 240 to 260
(R480). -/
def State.calm (n : Nat) (s : State) : Bool :=
  !s.ppu.renderingEnabled ||
    (240 ≤ s.ppu.scanline && s.ppu.dot ≤ 340 && 341 * s.ppu.scanline + s.ppu.dot + 3 * n < 341 * 261)

/-- An instruction of at most `n` cycles that accesses, besides the stack and the vectors, the addresses of a list meets
no refusal: none is marked, and it is calm or no address is a data port (R17, R481). -/
def State.permits (n : Nat) (as : List Addr) (s : State) : Bool :=
  s.refused.isNone && (s.calm n || as.all (fun a => !dataPort a))

/-! ### The operand forms -/

/-- The operand forms that give a byte of memory (R141). -/
inductive Form where
  | imm
  | zp
  | zpx
  | zpy
  | abs
  | absx
  | absy
  | indx
  | indy
deriving DecidableEq, Repr

/-- How many operand bytes a form has (R148). -/
def Form.bytes : Form → Nat
  | .abs | .absx | .absy => 2
  | .imm | .zp | .zpx | .zpy | .indx | .indy => 1

/-- The effective address of R142, from the bytes of memory and the index registers. `b1`, `b2` are the bytes after the
opcode, at the pc and behind it. The immediate operand is the byte at the pc. -/
def Form.ea (byte : Addr → Byte) (r : Regs) : Form → Addr
  | .imm => r.pc
  | .zp => zext16 (byte r.pc)
  | .zpx => zext16 (byte r.pc + r.x)
  | .zpy => zext16 (byte r.pc + r.y)
  | .abs => word (byte (r.pc + 1)) (byte r.pc)
  | .absx => word (byte (r.pc + 1)) (byte r.pc) + zext16 r.x
  | .absy => word (byte (r.pc + 1)) (byte r.pc) + zext16 r.y
  | .indx => word (byte (zext16 (byte r.pc + r.x + 1))) (byte (zext16 (byte r.pc + r.x)))
  | .indy => word (byte (zext16 (byte r.pc + 1))) (byte (zext16 (byte r.pc))) + zext16 r.y

/-- The bytes of the memories on the CPU bus, 0 where there is none. -/
def State.byteAt (s : State) (a : Addr) : Byte := (memByte s a).getD 0

/-- The cycles of a form before the access at its effective address, read class. The immediate form has none. -/
def Form.readTarget : Form → State → Target
  | .imm, s => (s.cpu.pc, s)
  | .zp, s => eaZp s
  | .zpx, s => eaZpx s
  | .zpy, s => eaZpy s
  | .abs, s => eaAbs s
  | .absx, s => eaAbsxRead s
  | .absy, s => eaAbsyRead s
  | .indx, s => eaIndx s
  | .indy, s => eaIndyRead s

/-- The cycles of a form before the access at its effective address, write and read-modify-write classes. -/
def Form.writeTarget : Form → State → Target
  | .imm, s => (s.cpu.pc, s)
  | .zp, s => eaZp s
  | .zpx, s => eaZpx s
  | .zpy, s => eaZpy s
  | .abs, s => eaAbs s
  | .absx, s => eaAbsxWrite s
  | .absy, s => eaAbsyWrite s
  | .indx, s => eaIndx s
  | .indy, s => eaIndyWrite s

/-- All cycles of a form in the read class: the operand byte M and the state after its read (R181). -/
def Form.read : Form → State → Got
  | .imm, s => readImm s
  | .zp, s => readAt (eaZp s)
  | .zpx, s => readAt (eaZpx s)
  | .zpy, s => readAt (eaZpy s)
  | .abs, s => readAt (eaAbs s)
  | .absx, s => readAt (eaAbsxRead s)
  | .absy, s => readAt (eaAbsyRead s)
  | .indx, s => readAt (eaIndx s)
  | .indy, s => readAt (eaIndyRead s)

/-- At most how many cycles a form takes before the access at its effective address (R184-R192). -/
def Form.lead : Form → Nat
  | .imm => 0
  | .zp => 1
  | .zpx | .zpy | .abs => 2
  | .absx | .absy => 3
  | .indx | .indy => 4

/-- The address with the index added to its low byte only (R188, R191), from the effective address. -/
def pageFixed (ea : Addr) (index : Byte) : Addr := word (hi8 (ea - zext16 index)) (lo8 ea)

/-- The addresses that the cycles of a form can access before and at the effective address `ea` (R184-R192, R208). The
zero page, where pointers and unindexed operands lie, holds no data port. -/
def Form.accessed (ea : Addr) (r : Regs) : Form → List Addr
  | .imm | .zp | .zpx | .zpy => [r.pc]
  | .abs => [r.pc, r.pc + 1, ea]
  | .absx => [r.pc, r.pc + 1, pageFixed ea r.x, ea]
  | .absy => [r.pc, r.pc + 1, pageFixed ea r.y, ea]
  | .indx => [r.pc, ea]
  | .indy => [r.pc, pageFixed ea r.y, ea]

/-- The addresses that a read-class instruction accesses. -/
def Form.readAccesses (f : Form) (s : State) : List Addr := f.accessed (f.readTarget s).1 s.cpu

/-- The addresses that a write or read-modify-write instruction accesses. -/
def Form.writeAccesses (f : Form) (s : State) : List Addr := f.accessed (f.writeTarget s).1 s.cpu

/-- The pc behind the operand bytes (R45). -/
def Form.pcAfter (f : Form) (s : State) : Addr := s.cpu.pc + BitVec.ofNat 16 f.bytes

/-! ### The rows of the opcode table with a byte operand -/

/-- An instruction with a byte operand in memory: its opcode byte, from the Encoding line of its rule, and its form. -/
structure Row where
  instr : Instr
  byte : Byte
  form : Form
deriving DecidableEq, Repr

/-- The forms of LDA (R240). -/
def ldaRows : List Row :=
  [⟨.ldaImm, 0xA9, .imm⟩, ⟨.ldaZp, 0xA5, .zp⟩, ⟨.ldaZpx, 0xB5, .zpx⟩, ⟨.ldaAbs, 0xAD, .abs⟩,
   ⟨.ldaAbsx, 0xBD, .absx⟩, ⟨.ldaAbsy, 0xB9, .absy⟩, ⟨.ldaIndx, 0xA1, .indx⟩, ⟨.ldaIndy, 0xB1, .indy⟩]

/-- The forms of LDX (R241). -/
def ldxRows : List Row :=
  [⟨.ldxImm, 0xA2, .imm⟩, ⟨.ldxZp, 0xA6, .zp⟩, ⟨.ldxZpy, 0xB6, .zpy⟩, ⟨.ldxAbs, 0xAE, .abs⟩,
   ⟨.ldxAbsy, 0xBE, .absy⟩]

/-- The forms of LDY (R242). -/
def ldyRows : List Row :=
  [⟨.ldyImm, 0xA0, .imm⟩, ⟨.ldyZp, 0xA4, .zp⟩, ⟨.ldyZpx, 0xB4, .zpx⟩, ⟨.ldyAbs, 0xAC, .abs⟩,
   ⟨.ldyAbsx, 0xBC, .absx⟩]

/-- The forms of STA (R243). -/
def staRows : List Row :=
  [⟨.staZp, 0x85, .zp⟩, ⟨.staZpx, 0x95, .zpx⟩, ⟨.staAbs, 0x8D, .abs⟩, ⟨.staAbsx, 0x9D, .absx⟩,
   ⟨.staAbsy, 0x99, .absy⟩, ⟨.staIndx, 0x81, .indx⟩, ⟨.staIndy, 0x91, .indy⟩]

/-- The forms of STX (R244). -/
def stxRows : List Row :=
  [⟨.stxZp, 0x86, .zp⟩, ⟨.stxZpy, 0x96, .zpy⟩, ⟨.stxAbs, 0x8E, .abs⟩]

/-- The forms of STY (R245). -/
def styRows : List Row :=
  [⟨.styZp, 0x84, .zp⟩, ⟨.styZpx, 0x94, .zpx⟩, ⟨.styAbs, 0x8C, .abs⟩]

/-- The forms of ADC (R271). -/
def adcRows : List Row :=
  [⟨.adcImm, 0x69, .imm⟩, ⟨.adcZp, 0x65, .zp⟩, ⟨.adcZpx, 0x75, .zpx⟩, ⟨.adcAbs, 0x6D, .abs⟩,
   ⟨.adcAbsx, 0x7D, .absx⟩, ⟨.adcAbsy, 0x79, .absy⟩, ⟨.adcIndx, 0x61, .indx⟩, ⟨.adcIndy, 0x71, .indy⟩]

/-- The forms of SBC (R272). -/
def sbcRows : List Row :=
  [⟨.sbcImm, 0xE9, .imm⟩, ⟨.sbcZp, 0xE5, .zp⟩, ⟨.sbcZpx, 0xF5, .zpx⟩, ⟨.sbcAbs, 0xED, .abs⟩,
   ⟨.sbcAbsx, 0xFD, .absx⟩, ⟨.sbcAbsy, 0xF9, .absy⟩, ⟨.sbcIndx, 0xE1, .indx⟩, ⟨.sbcIndy, 0xF1, .indy⟩]

/-- The forms of AND (R273). -/
def andRows : List Row :=
  [⟨.andImm, 0x29, .imm⟩, ⟨.andZp, 0x25, .zp⟩, ⟨.andZpx, 0x35, .zpx⟩, ⟨.andAbs, 0x2D, .abs⟩,
   ⟨.andAbsx, 0x3D, .absx⟩, ⟨.andAbsy, 0x39, .absy⟩, ⟨.andIndx, 0x21, .indx⟩, ⟨.andIndy, 0x31, .indy⟩]

/-- The forms of ORA (R274). -/
def oraRows : List Row :=
  [⟨.oraImm, 0x09, .imm⟩, ⟨.oraZp, 0x05, .zp⟩, ⟨.oraZpx, 0x15, .zpx⟩, ⟨.oraAbs, 0x0D, .abs⟩,
   ⟨.oraAbsx, 0x1D, .absx⟩, ⟨.oraAbsy, 0x19, .absy⟩, ⟨.oraIndx, 0x01, .indx⟩, ⟨.oraIndy, 0x11, .indy⟩]

/-- The forms of EOR (R275). -/
def eorRows : List Row :=
  [⟨.eorImm, 0x49, .imm⟩, ⟨.eorZp, 0x45, .zp⟩, ⟨.eorZpx, 0x55, .zpx⟩, ⟨.eorAbs, 0x4D, .abs⟩,
   ⟨.eorAbsx, 0x5D, .absx⟩, ⟨.eorAbsy, 0x59, .absy⟩, ⟨.eorIndx, 0x41, .indx⟩, ⟨.eorIndy, 0x51, .indy⟩]

/-- The forms of CMP (R276). -/
def cmpRows : List Row :=
  [⟨.cmpImm, 0xC9, .imm⟩, ⟨.cmpZp, 0xC5, .zp⟩, ⟨.cmpZpx, 0xD5, .zpx⟩, ⟨.cmpAbs, 0xCD, .abs⟩,
   ⟨.cmpAbsx, 0xDD, .absx⟩, ⟨.cmpAbsy, 0xD9, .absy⟩, ⟨.cmpIndx, 0xC1, .indx⟩, ⟨.cmpIndy, 0xD1, .indy⟩]

/-- The forms of CPX (R277). -/
def cpxRows : List Row :=
  [⟨.cpxImm, 0xE0, .imm⟩, ⟨.cpxZp, 0xE4, .zp⟩, ⟨.cpxAbs, 0xEC, .abs⟩]

/-- The forms of CPY (R278). -/
def cpyRows : List Row :=
  [⟨.cpyImm, 0xC0, .imm⟩, ⟨.cpyZp, 0xC4, .zp⟩, ⟨.cpyAbs, 0xCC, .abs⟩]

/-- The forms of BIT (R279). -/
def bitRows : List Row :=
  [⟨.bitZp, 0x24, .zp⟩, ⟨.bitAbs, 0x2C, .abs⟩]

/-- The forms of INC (R280). -/
def incRows : List Row :=
  [⟨.incZp, 0xE6, .zp⟩, ⟨.incZpx, 0xF6, .zpx⟩, ⟨.incAbs, 0xEE, .abs⟩, ⟨.incAbsx, 0xFE, .absx⟩]

/-- The forms of DEC (R281). -/
def decRows : List Row :=
  [⟨.decZp, 0xC6, .zp⟩, ⟨.decZpx, 0xD6, .zpx⟩, ⟨.decAbs, 0xCE, .abs⟩, ⟨.decAbsx, 0xDE, .absx⟩]

/-- The memory forms of ASL (R310). -/
def aslRows : List Row :=
  [⟨.aslZp, 0x06, .zp⟩, ⟨.aslZpx, 0x16, .zpx⟩, ⟨.aslAbs, 0x0E, .abs⟩, ⟨.aslAbsx, 0x1E, .absx⟩]

/-- The memory forms of LSR (R311). -/
def lsrRows : List Row :=
  [⟨.lsrZp, 0x46, .zp⟩, ⟨.lsrZpx, 0x56, .zpx⟩, ⟨.lsrAbs, 0x4E, .abs⟩, ⟨.lsrAbsx, 0x5E, .absx⟩]

/-- The memory forms of ROL (R312). -/
def rolRows : List Row :=
  [⟨.rolZp, 0x26, .zp⟩, ⟨.rolZpx, 0x36, .zpx⟩, ⟨.rolAbs, 0x2E, .abs⟩, ⟨.rolAbsx, 0x3E, .absx⟩]

/-- The memory forms of ROR (R313). -/
def rorRows : List Row :=
  [⟨.rorZp, 0x66, .zp⟩, ⟨.rorZpx, 0x76, .zpx⟩, ⟨.rorAbs, 0x6E, .abs⟩, ⟨.rorAbsx, 0x7E, .absx⟩]

/-- The instructions of the read class (R181). -/
def readRows : List Row :=
  ldaRows ++ ldxRows ++ ldyRows ++ adcRows ++ sbcRows ++ andRows ++ oraRows ++ eorRows ++ cmpRows ++ cpxRows ++
    cpyRows ++ bitRows

/-- The instructions of the write class (R181). -/
def writeRows : List Row := staRows ++ stxRows ++ styRows

/-- The instructions of the read-modify-write class (R181). -/
def rmwRows : List Row := incRows ++ decRows ++ aslRows ++ lsrRows ++ rolRows ++ rorRows

/-- The implied-mode instructions of two cycles, and the accumulator forms (R183). -/
def twoCycleInstrs : List Instr :=
  [.tax, .tay, .txa, .tya, .tsx, .txs, .inx, .iny, .dex, .dey, .aslAcc, .lsrAcc, .rolAcc, .rorAcc,
   .clc, .sec, .cli, .sei, .cld, .sed, .clv, .nop]

/-- Whether an interrupt is due behind an instruction that begins in `s` and polls once, in `k`, with the flag I at `i`: it was
due, or the poll finds a latched NMI or an interrupt line that I does not mask (R204, R412). -/
def State.duePolling (s k : State) (i : Bool) : Bool :=
  s.intr.intDue || k.intr.nmiLatched || (irqLine k && !i)

/-- A branch: its opcode byte, its condition, the flag it looks at and the value that takes it (R334-R341). -/
structure BranchRow where
  instr : Instr
  byte : Byte
  flag : Flags → Bool
  value : Bool

/-- The eight branches (R145, R334-R341). -/
def branchRows : List BranchRow :=
  [⟨.bpl, 0x10, Flags.n, false⟩, ⟨.bmi, 0x30, Flags.n, true⟩, ⟨.bvc, 0x50, Flags.v, false⟩, ⟨.bvs, 0x70, Flags.v, true⟩,
   ⟨.bcc, 0x90, Flags.c, false⟩, ⟨.bcs, 0xB0, Flags.c, true⟩, ⟨.bne, 0xD0, Flags.z, false⟩, ⟨.beq, 0xF0, Flags.z, true⟩]

/-- Whether a branch is taken (R333). -/
def BranchRow.taken (r : BranchRow) (s : State) : Bool := r.flag s.cpu.p == r.value

/-- The address of the instruction behind a branch, from the state behind its opcode fetch (R194). -/
def branchNext (s : State) : Addr := s.cpu.pc + 1

/-- The target of a branch with the offset byte `b1` (R194). -/
def branchTarget (b1 : Byte) (s : State) : Addr := branchNext s + sext16 b1

/-- The addresses a branch can access: its offset byte, the next instruction, the unfixed target (R194). -/
def branchAccesses (s : State) : List Addr :=
  [s.cpu.pc, branchNext s, word (hi8 (branchNext s)) (lo8 (branchTarget (fetch s).1 s))]

/-- The pointer of JMP indirect (R196). -/
def jumpPointer (s : State) : Addr := word (fetch (fetch s).2).1 (fetch s).1

/-- The address of the pointer's second byte: no carry into the high byte (R196, R197). -/
def jumpPointerHigh (p : Addr) : Addr := word (hi8 p) (lo8 p + 1)

/-- The stack cell `k` bytes above the pointer, inside page 0x01 (R44). -/
def stackCell (s : State) (k : Byte) : Addr := word 0x01 (s.cpu.s + k)

/-- The address that RTS pulls (R332). -/
def pulledAddress (s : State) : Addr := word (s.byteAt (stackCell s 2)) (s.byteAt (stackCell s 1))

/-! ### Cycle counts -/

/-- One more cycle when the index carries out of the low byte (R188, R191). -/
def pageCycle (ea : Addr) (index : Byte) : Nat := if pageFixed ea index = ea then 0 else 1

/-- The cycles of a branch (R194). -/
def branchCycles (taken : Bool) (s : State) : Nat :=
  if taken then if hi8 (branchTarget (fetch s).1 s) = hi8 (branchNext s) then 3 else 4 else 2

/-- The cycles of a read-class instruction, opcode fetch included (R207). -/
def Form.readCycles (f : Form) (s : State) : Nat :=
  match f with
  | .imm => 2
  | .zp => 3
  | .zpx | .zpy | .abs => 4
  | .absx => 4 + pageCycle (eaAbsxRead s).1 s.cpu.x
  | .absy => 4 + pageCycle (eaAbsyRead s).1 s.cpu.y
  | .indx => 6
  | .indy => 5 + pageCycle (eaIndyRead s).1 s.cpu.y

/-- The cycles of a write-class instruction, opcode fetch included (R207). -/
def Form.writeCycles : Form → Nat
  | .imm => 2
  | .zp => 3
  | .zpx | .zpy | .abs => 4
  | .absx | .absy => 5
  | .indx | .indy => 6

/-- The cycles of a read-modify-write instruction, opcode fetch included (R207). -/
def Form.rmwCycles (f : Form) : Nat := f.writeCycles + 2

/-- The instructions with a fixed count that are in no class of R181, with their counts (R207). -/
def fixedCycles : List (Instr × Nat) :=
  twoCycleInstrs.map (fun i => (i, 2)) ++
    [(.jmpAbs, 3), (.jmpInd, 5), (.jsr, 6), (.rts, 6), (.rti, 6), (.brk, 7), (.pha, 3), (.php, 3), (.pla, 4), (.plp, 4)]

/-! ### Memories before and after -/

/-- Two CPU addresses that reach one cell of a memory: work RAM appears four times (R92). -/
def sameCell (a b : Addr) : Bool :=
  if a.toNat ≤ 0x1FFF then b.toNat ≤ 0x1FFF && a.toNat % 0x800 = b.toNat % 0x800 else a = b

/-- The images, the cartridge's shape and the parameters, which no step changes (R11, R63, R96). -/
def State.sameImages (s t : State) : Prop :=
  t.cart.prg = s.cart.prg ∧ t.cart.chr = s.cart.chr ∧ t.cart.prgBanks = s.cart.prgBanks ∧
    t.cart.chrBanks = s.cart.chrBanks ∧ t.cart.mapper = s.cart.mapper ∧
    t.cart.headerMirroring = s.cart.headerMirroring ∧ t.cfg = s.cfg

/-- The memories that only the PPU's own registers reach, byte for byte (R107). -/
def State.samePpuMemory (s t : State) : Prop :=
  t.ppu.oam = s.ppu.oam ∧ t.ppu.ciram = s.ppu.ciram ∧ t.ppu.palette = s.ppu.palette ∧ t.cart.chrRam = s.cart.chrRam

/-- The PPU's registers and scroll fields that no read and no dot writes (R459, R460, R466, R470). -/
def State.samePpuRegisters (s t : State) : Prop :=
  t.ppu.ctrl = s.ppu.ctrl ∧ t.ppu.mask = s.ppu.mask ∧ t.ppu.scroll.t = s.ppu.scroll.t ∧
    t.ppu.scroll.x = s.ppu.scroll.x

/-- Nothing that only a write can change has changed: every memory, the mapper's registers, the PPU's registers and
scroll fields that no read and no dot writes, the DMA request, the strobe and the buttons (R106, R107). -/
def State.sameButReads (s t : State) : Prop :=
  t.ram = s.ram ∧ t.cart = s.cart ∧ t.cfg = s.cfg ∧ t.dmaReq = s.dmaReq ∧
    t.ppu.oam = s.ppu.oam ∧ t.ppu.ciram = s.ppu.ciram ∧ t.ppu.palette = s.ppu.palette ∧
    t.ppu.ctrl = s.ppu.ctrl ∧ t.ppu.mask = s.ppu.mask ∧ t.ppu.scroll.t = s.ppu.scroll.t ∧
    t.ppu.scroll.x = s.ppu.scroll.x ∧ t.pads.strobe = s.pads.strobe ∧ t.pads.buttons0 = s.pads.buttons0 ∧
    t.pads.buttons1 = s.pads.buttons1

/-- What a store to the address `a` leaves unchanged (R101, R107): every byte of CPU memory but those of the cell of
`a`; all of it, and only bank registers changed, when `a` selects a bank; the PPU's memories unless `a` is a data port;
the PPU's registers unless `a` is one; the DMA request, the strobe and the buttons. -/
def State.storeFrame (a : Addr) (s t : State) : Prop :=
  s.sameImages t ∧
    (a.toNat < 0x8000 → ∀ b, sameCell a b = false → memByte t b = memByte s b) ∧
    (0x8000 ≤ a.toNat → t.ram = s.ram ∧ t.cart.prgRam = s.cart.prgRam) ∧
    (a.toNat < 0x8000 → t.cart = { s.cart with prgRam := t.cart.prgRam, chrRam := t.cart.chrRam }) ∧
    (dataPort a = false → s.samePpuMemory t) ∧
    (a.toNat < 0x2000 ∨ 0x3FFF < a.toNat → s.samePpuRegisters t) ∧
    (a.toNat ≠ 0x4014 → t.dmaReq = s.dmaReq) ∧ (a.toNat ≠ 0x4016 → t.pads.strobe = s.pads.strobe) ∧
    t.pads.buttons0 = s.pads.buttons0 ∧ t.pads.buttons1 = s.pads.buttons1

/-- What the pushes of an instruction leave unchanged: every byte of CPU memory outside the cells of a list, and
everything else that a non-storing instruction leaves (R44, R92). -/
def State.stackFrame (cells : List Addr) (s t : State) : Prop :=
  s.sameButReads { t with ram := s.ram } ∧
    ∀ b, cells.all (fun c => !sameCell c b) = true → memByte t b = memByte s b

/-- Taking an interrupt from `s` to `t` (R403, R406, R407): the pc `ret` and the image of P with B = `b` are pushed, I
is set, and the pc is the word at 0xFFFA when `nmi`, else at 0xFFFE. -/
def State.entered (b : Bool) (ret : Addr) (nmi : Bool) (s t : State) : Prop :=
  t.cpu = { s.cpu with
    s := s.cpu.s - 3
    p := { s.cpu.p with i := true }
    pc := if nmi then word (s.byteAt 0xFFFB) (s.byteAt 0xFFFA) else word (s.byteAt 0xFFFF) (s.byteAt 0xFFFE) } ∧
    memByte t (stackCell s 0) = some (hi8 ret) ∧ memByte t (stackCell s (-1)) = some (lo8 ret) ∧
    memByte t (stackCell s (-2)) = some (pushedImage b s.cpu.p)

/-! ### The results of the instructions, in numbers -/

/-- N and Z from a result: Z when it is 0, N when it is 128 or more (R16). -/
def Flags.nz (v : Byte) (p : Flags) : Flags := { p with z := v.toNat = 0, n := 128 ≤ v.toNat }

/-- A flag as a number. -/
def num (b : Bool) : Nat := if b then 1 else 0

/-- The sum of R271 in numbers. -/
def addNat (a m : Byte) (c : Bool) : Nat := a.toNat + m.toNat + num c

/-- The same sum of two's-complement values (R270). -/
def addInt (a m : Byte) (c : Bool) : Int := a.toInt + m.toInt + num c

/-- The difference of R272, `A − M − (1 − C)`, in numbers. -/
def subNat (a m : Byte) (c : Bool) : Int := (a.toNat : Int) - m.toNat - num (!c)

/-- The same difference of two's-complement values (R270, R272). -/
def subInt (a m : Byte) (c : Bool) : Int := a.toInt - m.toInt - num (!c)

/-- A value outside the range of a two's-complement byte. -/
def overflows (i : Int) : Bool := i < -128 || 127 < i

/-- ADC in numbers (R271): the sum modulo 256, C when it exceeds 255, V when the signed sum overflows. -/
def addResult (m : Byte) (r : Regs) : Regs :=
  let v := BitVec.ofNat 8 (addNat r.a m r.p.c)
  { r with
    a := v
    p := { r.p with
      c := 255 < addNat r.a m r.p.c
      v := overflows (addInt r.a m r.p.c)
      z := v.toNat = 0
      n := 128 ≤ v.toNat } }

/-- SBC in numbers (R272): the difference modulo 256, C when there is no borrow, V when the signed one overflows. -/
def subResult (m : Byte) (r : Regs) : Regs :=
  let v := BitVec.ofInt 8 (subNat r.a m r.p.c)
  { r with
    a := v
    p := { r.p with
      c := 0 ≤ subNat r.a m r.p.c
      v := overflows (subInt r.a m r.p.c)
      z := v.toNat = 0
      n := 128 ≤ v.toNat } }

/-- The flags of a comparison in numbers (R276-R278). -/
def cmpResult (v m : Byte) (p : Flags) : Flags :=
  { p with c := m.toNat ≤ v.toNat, z := v.toNat = m.toNat, n := 128 ≤ (v.toNat + (256 - m.toNat)) % 256 }

/-- A byte result with N and Z from it, and C as given (R310-R313). -/
def shifted (n : Nat) (c : Bool) (p : Flags) : Byte × Flags :=
  (BitVec.ofNat 8 n, Flags.nz (BitVec.ofNat 8 n) { p with c := c })

/-- ASL in numbers (R310). -/
def aslResult (m : Byte) (p : Flags) : Byte × Flags := shifted (2 * m.toNat) (128 ≤ m.toNat) p

/-- LSR in numbers (R311). -/
def lsrResult (m : Byte) (p : Flags) : Byte × Flags := shifted (m.toNat / 2) (m.toNat % 2 = 1) p

/-- ROL in numbers: the old C enters bit 0 (R312). -/
def rolResult (m : Byte) (p : Flags) : Byte × Flags := shifted (2 * m.toNat + num p.c) (128 ≤ m.toNat) p

/-- ROR in numbers: the old C enters bit 7 (R313). -/
def rorResult (m : Byte) (p : Flags) : Byte × Flags := shifted (m.toNat / 2 + 128 * num p.c) (m.toNat % 2 = 1) p

/-- INC in numbers: C stays (R280). -/
def incResult (m : Byte) (p : Flags) : Byte × Flags := shifted (m.toNat + 1) p.c p

/-- DEC in numbers: C stays (R281). -/
def decResult (m : Byte) (p : Flags) : Byte × Flags := shifted (m.toNat + 255) p.c p

/-! ### What a row does -/

/-- A read-class row: its opcode byte decodes to it, and where its accesses are permitted it completes in its cycles, the
pc behind its bytes and the register file as `f` makes it from the operand M (R181, R207). -/
def Row.readsTo (r : Row) (s : State) (f : Byte → Regs → Regs) : Prop :=
  decodeOpcode r.byte = r.instr ∧
    (s.permits (r.form.lead + 1) (r.form.readAccesses s) = true →
      ∃ t, exec r.instr s = .next t ∧ t.cpu = f (r.form.read s).1 { s.cpu with pc := r.form.pcAfter s } ∧
        t.totalCycles + 1 = s.totalCycles + r.form.readCycles s)

/-- A write-class row: it completes in its cycles, moves the pc and nothing else of the register file, and its last
cycle writes `v` at its effective address, where a memory then holds `v` (R181, R207). -/
def Row.stores (r : Row) (s : State) (v : Byte) : Prop :=
  decodeOpcode r.byte = r.instr ∧
    (s.permits (r.form.lead + 1) (r.form.writeAccesses s) = true →
      ∃ t, exec r.instr s = .next t ∧ t.cpu = { s.cpu with pc := r.form.pcAfter s } ∧
        t.totalCycles + 1 = s.totalCycles + r.form.writeCycles ∧
        t = wr (r.form.writeTarget s).1 v (poll (r.form.writeTarget s).2) ∧
        ((r.form.writeTarget s).1.toNat < 0x8000 → (memByte s (r.form.writeTarget s).1).isSome = true →
          memByte t (r.form.writeTarget s).1 = some v))

/-- A read-modify-write row: it completes in its cycles, moves the pc and sets the flags that `f` gives, and its last
three cycles read M at its effective address, write M back and write the result, which a memory then holds (R182, R207). -/
def Row.modifies (r : Row) (s : State) (f : Byte → Flags → Byte × Flags) : Prop :=
  decodeOpcode r.byte = r.instr ∧
    (s.permits (r.form.lead + 3) (r.form.writeAccesses s) = true →
      let a := (r.form.writeTarget s).1
      let m := rd a (r.form.writeTarget s).2
      ∃ t, exec r.instr s = .next t ∧
        t.cpu = { s.cpu with pc := r.form.pcAfter s, p := (f m.1 s.cpu.p).2 } ∧
        t.totalCycles + 1 = s.totalCycles + r.form.rmwCycles ∧
        t = setP (f m.1 s.cpu.p).2 (wr a (f m.1 s.cpu.p).1 (poll (wr a m.1 m.2))) ∧
        (a.toNat < 0x8000 → ∀ v, memByte s a = some v → m.1 = v ∧ memByte t a = some (f v s.cpu.p).1))

/-- An implied or accumulator form: its opcode byte decodes to it, and where the read of the next byte is permitted it
completes in two cycles, the register file changed by `f` alone (R183). -/
def impliedDoes (i : Instr) (byte : Byte) (s : State) (f : Regs → Regs) : Prop :=
  decodeOpcode byte = i ∧
    (s.permits 1 [s.cpu.pc] = true →
      ∃ t, exec i s = .next t ∧ t.cpu = f s.cpu ∧ t.totalCycles + 1 = s.totalCycles + 2)

/-- An accumulator form of a shift (R183, R310-R313). -/
def onA (f : Byte → Flags → Byte × Flags) (r : Regs) : Regs := { r with a := (f r.a r.p).1, p := (f r.a r.p).2 }

/-! ### Who writes what -/

/-- The instructions that store: all others leave every memory (R107). -/
def storing : List Instr := writeRows.map Row.instr ++ rmwRows.map Row.instr ++ [.pha, .php, .jsr, .brk]

/-- The instructions that write A (R41). -/
def writesA : List Instr :=
  (ldaRows ++ adcRows ++ sbcRows ++ andRows ++ oraRows ++ eorRows).map Row.instr ++
    [.txa, .tya, .pla, .aslAcc, .lsrAcc, .rolAcc, .rorAcc]

/-- The instructions that write X (R42). -/
def writesX : List Instr := ldxRows.map Row.instr ++ [.tax, .tsx, .inx, .dex]

/-- The instructions that write Y (R43). -/
def writesY : List Instr := ldyRows.map Row.instr ++ [.tay, .iny, .dey]

/-- The instructions that write S (R44). -/
def writesS : List Instr := [.txs, .pha, .php, .pla, .plp, .jsr, .rts, .rti, .brk]

/-- The instructions that write P.C (R48). -/
def writesC : List Instr :=
  (adcRows ++ sbcRows ++ cmpRows ++ cpxRows ++ cpyRows ++ aslRows ++ lsrRows ++ rolRows ++ rorRows).map Row.instr ++
    [.aslAcc, .lsrAcc, .rolAcc, .rorAcc, .clc, .sec, .plp, .rti]

/-- The instructions that write P.Z, and P.N (R49, R53). -/
def writesNZ : List Instr :=
  (ldaRows ++ ldxRows ++ ldyRows ++ adcRows ++ sbcRows ++ andRows ++ oraRows ++ eorRows ++ cmpRows ++ cpxRows ++
    cpyRows ++ bitRows ++ rmwRows).map Row.instr ++
    [.tax, .tay, .txa, .tya, .tsx, .pla, .inx, .iny, .dex, .dey, .aslAcc, .lsrAcc, .rolAcc, .rorAcc, .plp, .rti]

/-- The instructions that write P.I (R50). -/
def writesI : List Instr := [.cli, .sei, .plp, .rti, .brk]

/-- The instructions that write P.D (R51). -/
def writesD : List Instr := [.cld, .sed, .plp, .rti]

/-- The instructions that write P.V (R52). -/
def writesV : List Instr := (adcRows ++ sbcRows ++ bitRows).map Row.instr ++ [.clv, .plp, .rti]

end Sys2Proof.Machine
end

