-- ==== Sys2Proof/Certificates/Slice0/Obligations.lean ====
section
/-!
DEFINITION. The statements for the provers, each from the rules its docstring cites.
-/

open Sys2Proof Sys2Proof.Machine

/-! ## Encoding -/

/-- Bytes written out from the Encoding lines of 41-45 decode to the instruction they stand for, with the operand bytes
in address order and the bytes behind them left over (R140, R141, R240-R373). -/
def Obligations.DecodesWrittenOutBytes : Prop :=
  decode [0xA9, 0x80] = .ok ⟨.ldaImm, [0x80], []⟩ ∧ decode [0xB6, 0x10, 0xEA] = .ok ⟨.ldxZpy, [0x10], [0xEA]⟩ ∧
    decode [0x8D, 0x00, 0x02] = .ok ⟨.staAbs, [0x00, 0x02], []⟩ ∧ decode [0x9A] = .ok ⟨.txs, [], []⟩ ∧
    decode [0x71, 0x44] = .ok ⟨.adcIndy, [0x44], []⟩ ∧ decode [0xE1, 0x44] = .ok ⟨.sbcIndx, [0x44], []⟩ ∧
    decode [0x39, 0x00, 0x44] = .ok ⟨.andAbsy, [0x00, 0x44], []⟩ ∧ decode [0xE0, 0x0A] = .ok ⟨.cpxImm, [0x0A], []⟩ ∧
    decode [0x2C, 0x02, 0x20] = .ok ⟨.bitAbs, [0x02, 0x20], []⟩ ∧
    decode [0xFE, 0x00, 0x03] = .ok ⟨.incAbsx, [0x00, 0x03], []⟩ ∧ decode [0x0A, 0x60] = .ok ⟨.aslAcc, [], [0x60]⟩ ∧
    decode [0x76, 0x20] = .ok ⟨.rorZpx, [0x20], []⟩ ∧ decode [0x6C, 0xFF, 0x02] = .ok ⟨.jmpInd, [0xFF, 0x02], []⟩ ∧
    decode [0x20, 0x00, 0x90] = .ok ⟨.jsr, [0x00, 0x90], []⟩ ∧ decode [0xD0, 0xEE] = .ok ⟨.bne, [0xEE], []⟩ ∧
    decode [0x28] = .ok ⟨.plp, [], []⟩ ∧ decode [0x78] = .ok ⟨.sei, [], []⟩ ∧ decode [0x00, 0xFF] = .ok ⟨.brk, [], [0xFF]⟩ ∧
    decode [0x40] = .ok ⟨.rti, [], []⟩ ∧ decode [0x02] = .ok ⟨.unassigned 0x02, [], []⟩ ∧
    decode [0xAD, 0x00] = .error (.truncated .ldaAbs)

/-- The decoder is total on the 256 bytes: each is an official instruction of R147 or an unassigned byte of R150, one and
only one, and its opcode byte is that byte; 151 bytes are official and 105 are not (R149, R150, R152). -/
def Obligations.EveryByteDecodes : Prop :=
  (∀ op : Byte, (decodeOpcode op).wf = true ∧ (decodeOpcode op).opcode = op ∧
    (decodeOpcode op = .unassigned op ↔ op ∈ unassignedBytes)) ∧
    ((List.range 256).countP (fun n => unassignedBytes.contains (BitVec.ofNat 8 n))) = 105

/-- Decoding the encoding of a well-formed instruction with any operand bytes of its length gives it back, with the bytes
that follow (R140, R148, R152). -/
def Obligations.DecodeOfEncode : Prop :=
  ∀ (i : Instr) (operand rest : List Byte), i.wf = true → operand.length = i.operandLength →
    decode (encode i operand ++ rest) = .ok ⟨i, operand, rest⟩

/-- Every decoded instruction is well formed, has the operand bytes of its mode's length, and its encoding is the bytes
read: no two byte strings decode alike (R140, R148, R152). -/
def Obligations.EncodeOfDecode : Prop :=
  ∀ (bytes : List Byte) (d : Decoded), decode bytes = .ok d →
    d.instr.wf = true ∧ d.operand.length = d.instr.operandLength ∧ encode d.instr d.operand ++ d.rest = bytes

/-! ## The step -/

/-- A step with no interrupt due fetches the byte at the pc, decodes it and is exec of that instruction in the state behind
the fetch; then the sprite DMA that the instruction asked for runs and is followed by a poll (R180, R418). -/
def Obligations.StepRunsDecodedInstruction : Prop :=
  ∀ (s : State) (op : Byte) (tail : List Byte) (d : Decoded), s.refused = none → s.intr.intDue = false →
    memByte s s.cpu.pc = some op → decode (op :: tail) = .ok d →
    (fetch s).2.cpu = { s.cpu with pc := s.cpu.pc + 1 } ∧ s.sameButReads (fetch s).2 ∧
      (fetch s).2.totalCycles = s.totalCycles + 1 ∧
      step s = afterInstr (exec d.instr (fetch s).2) ∧
      (∀ t, exec d.instr (fetch s).2 = .next t → t.dmaReq = none → step s = .next t) ∧
      (∀ t page, exec d.instr (fetch s).2 = .next t → t.dmaReq = some page → step s = finish (poll (oamDma page t))) ∧
      (∀ r, exec d.instr (fetch s).2 = .refused r → step s = .refused r)

/-- A step with an interrupt due fetches no opcode and takes the interrupt: two reads of the pc, the pushes of the pc and of
P with B = 0, I set, the vector loaded, in seven cycles; the request is consumed (R180, R403, R407, R413). -/
def Obligations.DueInterruptIsTaken : Prop :=
  ∀ s : State, s.intr.intDue = true → s.permits 7 [s.cpu.pc] = true →
    ∃ t, step s = .next t ∧
      s.entered false s.cpu.pc
        (push (lo8 s.cpu.pc) (push (hi8 s.cpu.pc) (dummyFetch (dummyFetch (clearDue s))))).intr.nmiLatched t ∧
      s.stackFrame [stackCell s 0, stackCell s (-1), stackCell s (-2)] t ∧ t.intr.intDue = false ∧
      t.totalCycles = s.totalCycles + 7 ∧ t.clock = s.clock + 7

/-- An NMI latched before a dispatch, or before a BRK, takes it over: the vector is the word at 0xFFFA; the choice clears
the latch, which stays clear when no new edge can come: the NMI output is disabled, or the line is high (R406, R410, R416,
R417). -/
def Obligations.LatchedNmiTakesTheEntry : Prop :=
  ∀ (s : State) (b : Bool), s.intr.nmiLatched = true →
    (enterInterrupt b s).cpu.pc = word (s.byteAt 0xFFFB) (s.byteAt 0xFFFA) ∧
      (s.ppu.nmiEnable = false ∨ (s.ppu.vblank = true ∧ s.intr.nmiLine = true) →
        (enterInterrupt b s).intr.nmiLatched = false)

/-- The poll: an interrupt is due when it was, when an NMI is latched, or when the audio boundary's interrupt time has come
and I is clear; nothing else changes (R412, R414). The interrupt time as a field of the state is the model's form of the
oracle (log 5). -/
def Obligations.PollDecides : Prop :=
  ∀ s : State, poll s = { s with intr := { s.intr with
    intDue := s.intr.intDue || s.intr.nmiLatched || (s.audio.irqTime.any (fun t => t ≤ s.clock) && !s.cpu.p.i) } }

/-- Every instruction but the branches and BRK polls once, behind its penultimate cycle: the two-cycle instructions, the
immediate forms among them, behind the opcode fetch, the others in the state that their cycles but the last lead to. All
poll with I as it was, CLI, SEI and PLP too, but RTI, which polls with the pulled I. BRK makes no poll. A branch polls once
behind its opcode fetch, whether or not it is taken, and again behind its third cycle only when it is taken across a page
(R204-R206, R419, R422). -/
def Obligations.InstructionPolls : Prop :=
  (∀ s t : State, let due := fun k => s.duePolling k s.cpu.p.i
     (∀ i ∈ twoCycleInstrs, exec i s = .next t → t.intr.intDue = due s) ∧
     (∀ r ∈ readRows, exec r.instr s = .next t → t.intr.intDue = due (r.form.readTarget s).2) ∧
     (∀ r ∈ writeRows, exec r.instr s = .next t → t.intr.intDue = due (r.form.writeTarget s).2) ∧
     (∀ r ∈ rmwRows, exec r.instr s = .next t →
       let m := rd (r.form.writeTarget s).1 (r.form.writeTarget s).2
       t.intr.intDue = due (wr (r.form.writeTarget s).1 m.1 m.2)) ∧
     (exec .jmpAbs s = .next t → t.intr.intDue = due (fetch s).2) ∧
     (exec .jmpInd s = .next t → t.intr.intDue = due (rd (jumpPointer s) (fetch (fetch s).2).2).2) ∧
     (exec .jsr s = .next t →
       t.intr.intDue = due (push (lo8 (s.cpu.pc + 1)) (push (hi8 (s.cpu.pc + 1)) (dummyStack (fetch s).2)))) ∧
     (exec .rts s = .next t →
       t.intr.intDue = due (readStack (incS (readStack (incS (dummyStack (dummyFetch s)))).2)).2) ∧
     (∀ i ∈ [Instr.pha, .php], exec i s = .next t → t.intr.intDue = due (dummyFetch s)) ∧
     (∀ i ∈ [Instr.pla, .plp], exec i s = .next t → t.intr.intDue = due (dummyStack (dummyFetch s))) ∧
     (exec .rti s = .next t → t.intr.intDue =
       s.duePolling (readStack (incS (readStack (incS (dummyStack (dummyFetch s)))).2)).2
         ((s.byteAt (stackCell s 1)).getLsbD 2)) ∧
     (exec .brk s = .next t → t.intr.intDue = s.intr.intDue)) ∧
  (∀ (s t : State), ∀ r ∈ branchRows, exec r.instr s = .next t →
     let first := s.duePolling s s.cpu.p.i
     let k := dummyFetch (fetch s).2
     t.intr.intDue = (if branchCycles (r.taken s) s = 4 then first || s.duePolling k s.cpu.p.i else first))

/-! ## Operands -/

/-- The bus cycles of every form compute the effective address of R142 from the bytes of memory, with the wraps of page zero,
and the operand read at an address of memory is the byte that memory holds there (R109, R142, R181, R193). -/
def Obligations.OperandsAreRead : Prop :=
  (∀ (s : State) (f : Form), (memByte s s.cpu.pc).isSome = true →
     (f.bytes = 2 → (memByte s (s.cpu.pc + 1)).isSome = true) →
     (f.readTarget s).1 = f.ea s.byteAt s.cpu ∧ (f.writeTarget s).1 = f.ea s.byteAt s.cpu) ∧
  (∀ (s : State) (f : Form) (v : Byte), memByte s (f.readTarget s).1 = some v → (f.read s).1 = v)

/-! ## Loads, stores, transfers -/

/-- LDA, LDX and LDY, every form: the register takes M, N and Z follow it (R240, R241, R242). -/
def Obligations.LoadResults : Prop :=
  ∀ s : State,
    (∀ r ∈ ldaRows, r.readsTo s (fun m k => { k with a := m, p := k.p.nz m })) ∧
    (∀ r ∈ ldxRows, r.readsTo s (fun m k => { k with x := m, p := k.p.nz m })) ∧
    (∀ r ∈ ldyRows, r.readsTo s (fun m k => { k with y := m, p := k.p.nz m }))

/-- STA, STX and STY, every form: the register's value is written at the effective address; no flag changes (R243, R244,
R245). -/
def Obligations.StoreResults : Prop :=
  ∀ s : State, (∀ r ∈ staRows, r.stores s s.cpu.a) ∧ (∀ r ∈ stxRows, r.stores s s.cpu.x) ∧
    (∀ r ∈ styRows, r.stores s s.cpu.y)

/-- The six transfers; TXS alone writes no flag (R246-R251). -/
def Obligations.TransferResults : Prop :=
  ∀ s : State,
    impliedDoes .tax 0xAA s (fun k => { k with x := k.a, p := k.p.nz k.a }) ∧
    impliedDoes .tay 0xA8 s (fun k => { k with y := k.a, p := k.p.nz k.a }) ∧
    impliedDoes .txa 0x8A s (fun k => { k with a := k.x, p := k.p.nz k.x }) ∧
    impliedDoes .tya 0x98 s (fun k => { k with a := k.y, p := k.p.nz k.y }) ∧
    impliedDoes .tsx 0xBA s (fun k => { k with x := k.s, p := k.p.nz k.s }) ∧
    impliedDoes .txs 0x9A s (fun k => { k with s := k.x })

/-! ## Arithmetic, logic, shifts -/

/-- ADC, every form: the binary sum modulo 256 whatever D is, C the ninth bit, V signed overflow. SBC, every form:
A − M − (1 − C) modulo 256, C set when there is no borrow, V signed overflow (R271, R272). -/
def Obligations.AddSubtractResults : Prop :=
  (∀ s : State, ∀ r ∈ adcRows, r.readsTo s addResult) ∧
  (∀ s : State, ∀ r ∈ sbcRows, r.readsTo s subResult)

/-- AND, ORA and EOR, every form (R273, R274, R275). -/
def Obligations.LogicResults : Prop :=
  ∀ s : State,
    (∀ r ∈ andRows, r.readsTo s (fun m k => { k with a := k.a &&& m, p := k.p.nz (k.a &&& m) })) ∧
    (∀ r ∈ oraRows, r.readsTo s (fun m k => { k with a := k.a ||| m, p := k.p.nz (k.a ||| m) })) ∧
    (∀ r ∈ eorRows, r.readsTo s (fun m k => { k with a := k.a ^^^ m, p := k.p.nz (k.a ^^^ m) }))

/-- CMP, CPX and CPY, every form: C, Z and N from the comparison; V and the register stay. BIT, both forms: N and V are bits 7
and 6 of the operand, Z tells whether A and M share a bit (R276-R279). -/
def Obligations.CompareAndBitResults : Prop :=
  (∀ s : State,
     (∀ r ∈ cmpRows, r.readsTo s (fun m k => { k with p := cmpResult k.a m k.p })) ∧
     (∀ r ∈ cpxRows, r.readsTo s (fun m k => { k with p := cmpResult k.x m k.p })) ∧
     (∀ r ∈ cpyRows, r.readsTo s (fun m k => { k with p := cmpResult k.y m k.p }))) ∧
  (∀ s : State, ∀ r ∈ bitRows, r.readsTo s (fun m k =>
     { k with p := { k.p with z := (k.a &&& m) = 0, n := 128 ≤ m.toNat, v := 64 ≤ m.toNat % 128 } }))

/-- INC and DEC, every form: one more or one less modulo 256, written behind M; INX, INY, DEX and DEY; C and V stay (R280-R285). -/
def Obligations.IncrementResults : Prop :=
  (∀ s : State, (∀ r ∈ incRows, r.modifies s incResult) ∧ (∀ r ∈ decRows, r.modifies s decResult)) ∧
  (∀ s : State,
     impliedDoes .inx 0xE8 s (fun k => { k with x := k.x + 1, p := k.p.nz (k.x + 1) }) ∧
     impliedDoes .iny 0xC8 s (fun k => { k with y := k.y + 1, p := k.p.nz (k.y + 1) }) ∧
     impliedDoes .dex 0xCA s (fun k => { k with x := k.x - 1, p := k.p.nz (k.x - 1) }) ∧
     impliedDoes .dey 0x88 s (fun k => { k with y := k.y - 1, p := k.p.nz (k.y - 1) }))

/-- ASL, LSR, ROL and ROR, accumulator and memory forms (R310-R313). -/
def Obligations.ShiftResults : Prop :=
  ∀ s : State,
    impliedDoes .aslAcc 0x0A s (onA aslResult) ∧ (∀ r ∈ aslRows, r.modifies s aslResult) ∧
    impliedDoes .lsrAcc 0x4A s (onA lsrResult) ∧ (∀ r ∈ lsrRows, r.modifies s lsrResult) ∧
    impliedDoes .rolAcc 0x2A s (onA rolResult) ∧ (∀ r ∈ rolRows, r.modifies s rolResult) ∧
    impliedDoes .rorAcc 0x6A s (onA rorResult) ∧ (∀ r ∈ rorRows, r.modifies s rorResult)

/-! ## Control transfer -/

/-- JMP, both forms: PC is the operand word, or the word at the pointer, whose second byte never leaves the pointer's page
(R195, R196, R197, R330). -/
def Obligations.JumpResults : Prop :=
  ∀ s : State, decodeOpcode 0x4C = .jmpAbs ∧ decodeOpcode 0x6C = .jmpInd ∧
    (s.permits 2 [s.cpu.pc, s.cpu.pc + 1] = true →
      ∃ t, exec .jmpAbs s = .next t ∧ t.totalCycles + 1 = s.totalCycles + 3 ∧
        t.cpu = { s.cpu with pc := word (fetch (fetch s).2).1 (fetch s).1 } ∧
        ((memByte s s.cpu.pc).isSome = true → (memByte s (s.cpu.pc + 1)).isSome = true →
          t.cpu.pc = word (s.byteAt (s.cpu.pc + 1)) (s.byteAt s.cpu.pc))) ∧
    (s.permits 4 [s.cpu.pc, s.cpu.pc + 1, jumpPointer s, jumpPointerHigh (jumpPointer s)] = true →
      ∃ t, exec .jmpInd s = .next t ∧ t.totalCycles + 1 = s.totalCycles + 5 ∧ t.cpu = { s.cpu with pc := t.cpu.pc } ∧
        ((memByte s s.cpu.pc).isSome = true → (memByte s (s.cpu.pc + 1)).isSome = true →
          jumpPointer s = word (s.byteAt (s.cpu.pc + 1)) (s.byteAt s.cpu.pc)) ∧
        ((memByte s (jumpPointer s)).isSome = true → (memByte s (jumpPointerHigh (jumpPointer s))).isSome = true →
          t.cpu.pc = word (s.byteAt (jumpPointerHigh (jumpPointer s))) (s.byteAt (jumpPointer s))))

/-- JSR: the address of its last byte is pushed, high byte first; the target's high byte is read after the pushes. RTS: PC is
the pulled address plus 1; S goes up by 2 inside page 0x01 (R198, R199, R331, R332). -/
def Obligations.CallAndReturnResults : Prop :=
  (∀ s : State, decodeOpcode 0x20 = .jsr ∧
     (s.permits 5 [s.cpu.pc, s.cpu.pc + 1] = true →
       ∃ t, exec .jsr s = .next t ∧ t.totalCycles + 1 = s.totalCycles + 6 ∧
         t.cpu = { s.cpu with s := s.cpu.s - 2, pc := t.cpu.pc } ∧
         memByte t (stackCell s 0) = some (hi8 (s.cpu.pc + 1)) ∧ memByte t (stackCell s (-1)) = some (lo8 (s.cpu.pc + 1)) ∧
         ((memByte s s.cpu.pc).isSome = true → (memByte s (s.cpu.pc + 1)).isSome = true →
           t.cpu.pc = word (t.byteAt (s.cpu.pc + 1)) (s.byteAt s.cpu.pc)))) ∧
  (∀ s : State, decodeOpcode 0x60 = .rts ∧
     (s.permits 5 [s.cpu.pc, pulledAddress s] = true →
       ∃ t, exec .rts s = .next t ∧ t.totalCycles + 1 = s.totalCycles + 6 ∧
         t.cpu = { s.cpu with s := s.cpu.s + 2, pc := pulledAddress s + 1 }))

/-- The eight branches: taken or not by their flag, to the offset from the next instruction, in two to four cycles; no flag
changes (R194, R333-R341). -/
def Obligations.BranchResults : Prop :=
  ∀ s : State, ∀ r ∈ branchRows, decodeOpcode r.byte = r.instr ∧
    (s.permits 3 (branchAccesses s) = true →
      ∃ t, exec r.instr s = .next t ∧ t.totalCycles + 1 = s.totalCycles + branchCycles (r.taken s) s ∧
        t.cpu = { s.cpu with pc := if r.taken s then branchTarget (fetch s).1 s else branchNext s } ∧
        ∀ v, memByte s s.cpu.pc = some v → (fetch s).1 = v)

/-! ## Stack, flags, system -/

/-- PHA and PHP: the byte is written at the top of the stack and S goes down by one inside page 0x01; PHP's image has bits 5
and 4 set. PLA and PLP: S goes up by one and the byte there is pulled; PLP ignores bits 5 and 4 (R44, R47, R360-R363). -/
def Obligations.PushAndPullResults : Prop :=
  (∀ s : State, decodeOpcode 0x48 = .pha ∧ decodeOpcode 0x08 = .php ∧
     (s.permits 2 [s.cpu.pc] = true →
       (∃ t, exec .pha s = .next t ∧ t.totalCycles + 1 = s.totalCycles + 3 ∧ t.cpu = { s.cpu with s := s.cpu.s - 1 } ∧
         memByte t (stackCell s 0) = some s.cpu.a) ∧
       (∃ t, exec .php s = .next t ∧ t.totalCycles + 1 = s.totalCycles + 3 ∧ t.cpu = { s.cpu with s := s.cpu.s - 1 } ∧
         memByte t (stackCell s 0) = some (BitVec.ofNat 8 (128 * num s.cpu.p.n + 64 * num s.cpu.p.v + 32 + 16 +
           8 * num s.cpu.p.d + 4 * num s.cpu.p.i + 2 * num s.cpu.p.z + num s.cpu.p.c))))) ∧
  (∀ s : State, decodeOpcode 0x68 = .pla ∧ decodeOpcode 0x28 = .plp ∧
     (s.permits 3 [s.cpu.pc] = true →
       let v := s.byteAt (stackCell s 1)
       (∃ t, exec .pla s = .next t ∧ t.totalCycles + 1 = s.totalCycles + 4 ∧
         t.cpu = { s.cpu with s := s.cpu.s + 1, a := v, p := s.cpu.p.nz v }) ∧
       (∃ t, exec .plp s = .next t ∧ t.totalCycles + 1 = s.totalCycles + 4 ∧
         t.cpu = { s.cpu with
           s := s.cpu.s + 1
           p := { n := v.getLsbD 7, v := v.getLsbD 6, d := v.getLsbD 3, i := v.getLsbD 2, z := v.getLsbD 1,
                  c := v.getLsbD 0 } })))

/-- The seven flag instructions write one flag each, and NOP writes nothing (R364-R371). -/
def Obligations.FlagResults : Prop :=
  ∀ s : State,
    impliedDoes .clc 0x18 s (fun k => { k with p := { k.p with c := false } }) ∧
    impliedDoes .sec 0x38 s (fun k => { k with p := { k.p with c := true } }) ∧
    impliedDoes .cli 0x58 s (fun k => { k with p := { k.p with i := false } }) ∧
    impliedDoes .sei 0x78 s (fun k => { k with p := { k.p with i := true } }) ∧
    impliedDoes .cld 0xD8 s (fun k => { k with p := { k.p with d := false } }) ∧
    impliedDoes .sed 0xF8 s (fun k => { k with p := { k.p with d := true } }) ∧
    impliedDoes .clv 0xB8 s (fun k => { k with p := { k.p with v := false } }) ∧
    impliedDoes .nop 0xEA s (fun k => k)

/-- BRK: the address behind its padding byte and the image of P with B = 1 are pushed, I is set, and PC is loaded from the
vector chosen after the second push; taken whatever I is (R203, R372, R405, R406, R407). -/
def Obligations.BreakResult : Prop :=
  ∀ s : State, decodeOpcode 0x00 = .brk ∧
    (s.permits 6 [s.cpu.pc] = true →
      ∃ t, exec .brk s = .next t ∧ t.totalCycles + 1 = s.totalCycles + 7 ∧
        s.entered true (s.cpu.pc + 1)
          (push (lo8 (s.cpu.pc + 1)) (push (hi8 (s.cpu.pc + 1)) (fetch s).2)).intr.nmiLatched t)

/-- RTI: P, then PC are pulled, with no 1 added; S goes up by three (R200, R373, R419). -/
def Obligations.ReturnFromInterruptResult : Prop :=
  ∀ s : State, decodeOpcode 0x40 = .rti ∧
    (s.permits 5 [s.cpu.pc] = true →
      let v := s.byteAt (stackCell s 1)
      ∃ t, exec .rti s = .next t ∧ t.totalCycles + 1 = s.totalCycles + 6 ∧
        t.cpu = { s.cpu with
          s := s.cpu.s + 3
          pc := word (s.byteAt (stackCell s 3)) (s.byteAt (stackCell s 2))
          p := { n := v.getLsbD 7, v := v.getLsbD 6, d := v.getLsbD 3, i := v.getLsbD 2, z := v.getLsbD 1,
                 c := v.getLsbD 0 } })

/-- An unassigned byte is refused by its name behind the opcode fetch, in a step as in exec (R180, R395). -/
def Obligations.UnassignedByteIsRefused : Prop :=
  ∀ (s : State) (op : Byte), s.refused = none → op ∈ unassignedBytes →
    exec (.unassigned op) s = .refused (.unassignedOpcode op) ∧
      (s.intr.intDue = false → memByte s s.cpu.pc = some op → step s = .refused (.unassignedOpcode op))

/-- A refusal is final: with the mark set, every instruction and the step answer it again, and a step that answers a next
state began without the mark and leaves none (R17, R643). -/
def Obligations.RefusalIsFinal : Prop :=
  (∀ (s : State) (r : Refusal), s.refused = some r → (∀ i, exec i s = .refused r) ∧ step s = .refused r) ∧
    (∀ s t : State, step s = .next t → s.refused = none ∧ t.refused = none)

/-! ## What instructions leave unchanged -/

/-- Only the instructions that R41-R44 and R48-R53 list write A, X, Y, S and each flag. -/
def Obligations.RegistersAndFlagsHaveTheirWriters : Prop :=
  ∀ (i : Instr) (s t : State), exec i s = .next t →
    (i ∉ writesA → t.cpu.a = s.cpu.a) ∧ (i ∉ writesX → t.cpu.x = s.cpu.x) ∧ (i ∉ writesY → t.cpu.y = s.cpu.y) ∧
    (i ∉ writesS → t.cpu.s = s.cpu.s) ∧ (i ∉ writesC → t.cpu.p.c = s.cpu.p.c) ∧
    (i ∉ writesNZ → t.cpu.p.z = s.cpu.p.z ∧ t.cpu.p.n = s.cpu.p.n) ∧ (i ∉ writesI → t.cpu.p.i = s.cpu.p.i) ∧
    (i ∉ writesD → t.cpu.p.d = s.cpu.p.d) ∧ (i ∉ writesV → t.cpu.p.v = s.cpu.p.v)

/-- Every instruction that does not store leaves every byte of every memory, the mapper's registers, the PPU's written
registers, the DMA request, the strobe and the buttons (R106, R107). -/
def Obligations.NonStoringLeavesMemory : Prop :=
  ∀ (i : Instr) (s t : State), i ∉ storing → exec i s = .next t → s.sameButReads t

/-- A store, and a read-modify-write instruction, changes nothing but what a write to its effective address changes (R101,
R107, R182). -/
def Obligations.StoresChangeTheirTarget : Prop :=
  ∀ (s t : State), ∀ r ∈ writeRows ++ rmwRows, exec r.instr s = .next t →
    ∀ a, (r.form.writeTarget s).1 = a → s.storeFrame a t

/-- PHA, PHP, JSR and BRK change no memory but the stack cells they push to (R44, R198, R201, R203). -/
def Obligations.PushesChangeTheirCells : Prop :=
  ∀ s t : State,
    (∀ i ∈ [Instr.pha, .php], exec i s = .next t → s.stackFrame [stackCell s 0] t) ∧
    (exec .jsr s = .next t → s.stackFrame [stackCell s 0, stackCell s (-1)] t) ∧
    (exec .brk s = .next t → s.stackFrame [stackCell s 0, stackCell s (-1), stackCell s (-2)] t)

/-- No step changes the program image, the graphics image, the cartridge's shape or the parameters (R11, R63, R96). -/
def Obligations.ImagesNeverChange : Prop :=
  ∀ s t : State, step s = .next t → s.sameImages t

/-- The cycle counts of every official instruction, opcode fetch included; the clock and the count since power-on advance
alike (R56, R102, R207). -/
def Obligations.CycleCounts : Prop :=
  ∀ s t : State,
    (∀ r ∈ readRows, exec r.instr s = .next t →
      t.totalCycles + 1 = s.totalCycles + r.form.readCycles s ∧ t.clock + 1 = s.clock + r.form.readCycles s) ∧
    (∀ r ∈ writeRows, exec r.instr s = .next t →
      t.totalCycles + 1 = s.totalCycles + r.form.writeCycles ∧ t.clock + 1 = s.clock + r.form.writeCycles) ∧
    (∀ r ∈ rmwRows, exec r.instr s = .next t →
      t.totalCycles + 1 = s.totalCycles + r.form.rmwCycles ∧ t.clock + 1 = s.clock + r.form.rmwCycles) ∧
    (∀ r ∈ branchRows, exec r.instr s = .next t →
      t.totalCycles + 1 = s.totalCycles + branchCycles (r.taken s) s ∧
        t.clock + 1 = s.clock + branchCycles (r.taken s) s) ∧
    (∀ k ∈ fixedCycles, exec k.1 s = .next t →
      t.totalCycles + 1 = s.totalCycles + k.2 ∧ t.clock + 1 = s.clock + k.2)

/-! ## The bus -/

/-- A bus cycle ticks the PPU three times, advances both counters by one, lets the open-bus byte decay when that counts CPU
cycles, and only then routes the access (R98, R99). -/
def Obligations.BusCycleTicksBeforeRouting : Prop :=
  ∀ (s : State) (a : Addr) (v : Byte), ∃ k : State,
    rd a s = routeRead a k ∧ wr a v s = routeWrite a v k ∧ k.clock = s.clock + 1 ∧ k.totalCycles = s.totalCycles + 1 ∧
      k.cpu = s.cpu ∧ s.sameButReads k ∧ k.intr = (ppuTick (ppuTick (ppuTick s))).intr ∧
      k.ppu = (let p := (ppuTick (ppuTick (ppuTick s))).ppu
        if s.cfg.decayUnit = .cpuCycle ∧ 0 < p.decayTimer then
          { p with decayTimer := p.decayTimer - 1, ioLatch := if p.decayTimer = 1 then 0 else p.ioLatch } else p)

/-- The routing of reads and of writes over the whole CPU address space (R92-R96, R100, R101). That a read without a device
gives one constant byte is the model's choice (log 3), and so is the audio boundary as opaque functions of the events seen
(R595-R597; log 5). -/
def Obligations.BusRouting : Prop :=
  (∀ (s : State) (a : Addr),
     (a.toNat ≤ 0x1FFF → routeRead a s = (readCell s.ram (a &&& 0x07FF).toNat, s)) ∧
     (0x2000 ≤ a.toNat → a.toNat ≤ 0x3FFF → routeRead a s = ppuRead (a &&& 7).toNat s) ∧
     (a = 0x4015 → let seen := AudioEvent.read a s.clock :: s.audio.events
       routeRead a s = (Config.audioRead seen, { s with audio := { events := seen, irqTime := Config.audioNextIrq seen } })) ∧
     (a = 0x4016 → routeRead a s = controllerRead0 s) ∧
     (a = 0x4017 → routeRead a s = controllerRead1 s) ∧
     (0x4000 ≤ a.toNat → a.toNat ≤ 0x4014 → routeRead a s = (Config.cpuOpenBus, s)) ∧
     (0x4018 ≤ a.toNat → a.toNat ≤ 0x5FFF → routeRead a s = (Config.cpuOpenBus, s)) ∧
     (0x6000 ≤ a.toNat → a.toNat ≤ 0x7FFF → routeRead a s = (readCell s.cart.prgRam (a.toNat - 0x6000), s)) ∧
     (0x8000 ≤ a.toNat → routeRead a s = (readProgram s.cfg s.cart a, s))) ∧
  (∀ (s : State) (a : Addr) (v : Byte),
     (a.toNat ≤ 0x1FFF → routeWrite a v s = { s with ram := writeCell s.ram (a &&& 0x07FF).toNat v }) ∧
     (0x2000 ≤ a.toNat → a.toNat ≤ 0x3FFF → routeWrite a v s = ppuWrite (a &&& 7).toNat v s) ∧
     ((0x4000 ≤ a.toNat ∧ a.toNat ≤ 0x4013) ∨ a = 0x4015 ∨ a = 0x4017 →
       let seen := AudioEvent.write a v s.clock :: s.audio.events
       routeWrite a v s = { s with audio := { events := seen, irqTime := Config.audioNextIrq seen } }) ∧
     (a = 0x4014 → routeWrite a v s = { s with dmaReq := some v }) ∧ (a = 0x4016 → routeWrite a v s = strobeWrite v s) ∧
     (0x4018 ≤ a.toNat → a.toNat ≤ 0x5FFF → routeWrite a v s = s) ∧
     (0x6000 ≤ a.toNat → a.toNat ≤ 0x7FFF → routeWrite a v s =
       { s with cart := { s.cart with prgRam := writeCell s.cart.prgRam (a.toNat - 0x6000) v } }) ∧
     (0x8000 ≤ a.toNat → routeWrite a v s = { s with cart := writeBankSelect s.cfg s.totalCycles s.cart a v }))

/-- A byte of work RAM or cartridge RAM reads back as last written, at every mirror, and every other byte of the CPU's
memories as before (R92, R109, R573). -/
def Obligations.ReadAfterWrite : Prop :=
  ∀ (s : State) (a b : Addr) (v : Byte), a.toNat < 0x8000 → (memByte s a).isSome = true →
    memByte (wr a v s) b = (if sameCell a b then some v else memByte s b) ∧
      (∀ u, memByte (wr a v s) b = some u → (rd b (wr a v s)).1 = u)

/-! ## The picture unit -/

/-- One tick's vblank flag, frame flags and NMI line: vblank rises at (241, 0), all three flags fall at (261, 0), the frame
is complete at (240, 0), the line is vblank and its enable, and a rise of it latches an NMI (R410, R411, R477, R478). -/
def Obligations.VblankAndNmi : Prop :=
  ∀ s : State, let t := ppuTick s
    t.ppu.vblank = (if s.ppu.scanline = 241 ∧ s.ppu.dot = 0 then true
      else if s.ppu.scanline = 261 ∧ s.ppu.dot = 0 then false else s.ppu.vblank) ∧
    (s.ppu.scanline = 261 ∧ s.ppu.dot = 0 → t.ppu.sprite0Hit = false ∧ t.ppu.spriteOverflow = false) ∧
    t.ppu.frameComplete = (s.ppu.frameComplete || (s.ppu.scanline = 240 && s.ppu.dot = 0)) ∧
    t.intr.nmiLine = (t.ppu.vblank && s.ppu.ctrl.getLsbD 7) ∧
    t.intr.nmiLatched = (s.intr.nmiLatched || (t.intr.nmiLine && !s.intr.nmiLine))

/-- A status read returns the three flags over the low bits of the open-bus byte, clears vblank and the write toggle, lets
the NMI line fall, and at dots 1 to 3 of line 241 cancels the latched NMI (R465, R479). -/
def Obligations.StatusRead : Prop :=
  ∀ s : State, let r := ppuRead 2 s
    r.1 = BitVec.ofNat 8 (128 * num s.ppu.vblank + 64 * num s.ppu.sprite0Hit + 32 * num s.ppu.spriteOverflow +
      s.ppu.ioLatch.toNat % 32) ∧
    r.2.ppu = { s.ppu with vblank := false, scroll := { s.ppu.scroll with w := false } } ∧
    r.2.intr.nmiLine = false ∧
    r.2.intr.nmiLatched = (if s.ppu.scanline = 241 ∧ (s.ppu.dot = 1 ∨ s.ppu.dot = 2 ∨ s.ppu.dot = 3) then false
      else s.intr.nmiLatched) ∧
    r.2.ram = s.ram ∧ r.2.cart = s.cart ∧ r.2.cpu = s.cpu

/-- The writes of registers 0 to 3. Control: its low bits go to the nametable bits of t, and enabling the NMI while vblank is
set raises the line and latches an NMI. Mask and OAM address take the value, register 2 nothing. Every write refreshes the
open-bus byte, and during the warm-up a write to 0, 1, 5 or 6 does nothing else (R411, R461, R464, R466-R468). -/
def Obligations.RegisterWrites : Prop :=
  (∀ (s : State) (v : Byte), s.cfg.ppuWarmupCycles ≤ s.totalCycles →
     ppuWrite 0 v s = { s with
       ppu := { s.ppu with
         ctrl := v
         ioLatch := v
         decayTimer := 7777
         scroll := { s.ppu.scroll with
           t := (s.ppu.scroll.t &&& 0x73FF) ||| ((v &&& 3).setWidth 15 <<< 10) } }
       intr := { s.intr with
         nmiLine := s.ppu.vblank && v.getLsbD 7
         nmiLatched := s.intr.nmiLatched || (s.ppu.vblank && v.getLsbD 7 && !s.intr.nmiLine) } } ∧
     ppuWrite 1 v s = { s with ppu := { s.ppu with mask := v, ioLatch := v, decayTimer := 7777 } }) ∧
  (∀ (s : State) (v : Byte),
     ppuWrite 2 v s = { s with ppu := { s.ppu with ioLatch := v, decayTimer := 7777 } } ∧
     ppuWrite 3 v s = { s with ppu := { s.ppu with oamaddr := v, ioLatch := v, decayTimer := 7777 } }) ∧
  (∀ (s : State) (v : Byte), s.totalCycles < s.cfg.ppuWarmupCycles → ∀ r ∈ [0, 1, 5, 6],
     ppuWrite r v s = { s with ppu := { s.ppu with ioLatch := v, decayTimer := 7777 } })

/-- The two writes of the scroll register and of the address register, from a clear toggle: the fields of t and x they set,
and v a copy of t after the second address write (R455, R464, R470, R473). -/
def Obligations.TwoPartWrites : Prop :=
  ∀ (s : State) (u v : Byte), s.cfg.ppuWarmupCycles ≤ s.totalCycles → s.ppu.scroll.w = false →
    (ppuWrite 5 u s).ppu.scroll = { s.ppu.scroll with
      t := (s.ppu.scroll.t &&& 0x7FE0) ||| (u >>> 3).setWidth 15
      x := (u &&& 7).setWidth 3
      w := true } ∧
    (ppuWrite 5 v (ppuWrite 5 u s)).ppu.scroll = { s.ppu.scroll with
      t := (s.ppu.scroll.t &&& 0x0C00) ||| ((v &&& 7).setWidth 15 <<< 12) ||| ((v >>> 3).setWidth 15 <<< 5) |||
        (u >>> 3).setWidth 15
      x := (u &&& 7).setWidth 3
      w := false } ∧
    (ppuWrite 6 u s).ppu.scroll = { s.ppu.scroll with
      t := (s.ppu.scroll.t &&& 0x00FF) ||| ((u &&& 0x3F).setWidth 15 <<< 8)
      w := true } ∧
    (ppuWrite 6 v (ppuWrite 6 u s)).ppu.scroll = { s.ppu.scroll with
      t := ((u &&& 0x3F).setWidth 15 <<< 8) ||| v.setWidth 15
      v := ((u &&& 0x3F).setWidth 15 <<< 8) ||| v.setWidth 15
      w := false }

/-- The data port. A read below the palette returns the buffered byte and refills the buffer; a palette read returns the entry
under the top bits of the open-bus byte and fills the buffer from the nametable under it. A write stores at the address of v,
in graphics RAM, CIRAM or the palette; graphics ROM takes nothing. Both move v by 1 or 32 (R471, R472, R482, R574). -/
def Obligations.DataPort : Prop :=
  (∀ s : State, s.ppu.renderingActive = false →
     let a := s.ppu.scroll.v.toNat % 0x4000
     let r := ppuRead 7 s
     (a < 0x3F00 → r.1 = s.ppu.readBuffer ∧ r.2.ppu.readBuffer = vramRead s.cart s.ppu (BitVec.ofNat 14 a)) ∧
     (0x3F00 ≤ a → r.1.toNat = (readCell s.ppu.palette (palidx (BitVec.ofNat 14 a))).toNat +
         s.ppu.ioLatch.toNat / 64 * 64 ∧
       r.2.ppu.readBuffer = readCell s.ppu.ciram (mirrorNametableAddress s.cart (a - 0x1000))) ∧
     r.2.ppu.scroll.v = s.ppu.scroll.v + (if s.ppu.ctrl.getLsbD 2 then 32 else 1) ∧ r.2.refused = s.refused) ∧
  (∀ (s : State) (v : Byte), s.ppu.renderingActive = false →
     let a := s.ppu.scroll.v.toNat % 0x4000
     let t := ppuWrite 7 v s
     t.ppu.scroll.v = s.ppu.scroll.v + (if s.ppu.ctrl.getLsbD 2 then 32 else 1) ∧
     t.cart = (if a ≤ 0x1FFF ∧ s.cart.chrBanks = 0 then
       { s.cart with chrRam := writeCell s.cart.chrRam (chrAddr s.cart a) v } else s.cart) ∧
     t.ppu.ciram = (if 0x2000 ≤ a ∧ a ≤ 0x3EFF then
       writeCell s.ppu.ciram (mirrorNametableAddress s.cart a) v else s.ppu.ciram) ∧
     t.ppu.palette = (if 0x3F00 ≤ a then
       writeCell s.ppu.palette (palidx (BitVec.ofNat 14 a)) (v.setWidth 6) else s.ppu.palette) ∧
     t.ppu.oam = s.ppu.oam ∧ t.ram = s.ram ∧ t.refused = s.refused)

/-- Palette addresses fold onto 28 cells: two addresses select one entry exactly when their low five bits agree, or agree
but for bit 4 in a multiple of 4 (R452). -/
def Obligations.PaletteMirrors : Prop :=
  ∀ (c : Cartridge) (p : Ppu) (a b : PAddr) (v : Byte), 0x3F00 ≤ a.toNat → 0x3F00 ≤ b.toNat →
    (vramWritePpu c p a v).paletteAt b =
      (if a.toNat % 32 = b.toNat % 32 ∨ (a.toNat % 4 = 0 ∧ a.toNat % 16 = b.toNat % 16) then v.setWidth 6
      else p.paletteAt b)

/-- The OAM data register: a read leaves the address and masks an attribute byte; a write stores and moves the address on
modulo 256 (R469). -/
def Obligations.OamData : Prop :=
  ∀ (s : State) (v : Byte), s.ppu.renderingActive = false →
    ppuRead 4 s = ((if s.ppu.oamaddr.toNat % 4 = 2 then readCell s.ppu.oam s.ppu.oamaddr.toNat &&& 0xE3
      else readCell s.ppu.oam s.ppu.oamaddr.toNat), s) ∧
    (ppuWrite 4 v s).ppu = { s.ppu with
      oam := writeCell s.ppu.oam s.ppu.oamaddr.toNat v
      oamaddr := BitVec.ofNat 8 (s.ppu.oamaddr.toNat + 1)
      ioLatch := v
      decayTimer := 7777 } ∧ (ppuWrite 4 v s).refused = s.refused

/-- The only accesses that refuse are those of registers 4 and 7 while rendering is active, reads and writes alike, each by
its name (R469, R471, R472, R480, R481). -/
def Obligations.DataPortsRefuseWhileRendering : Prop :=
  ∀ (s : State) (a : Addr) (v : Byte), s.refused = none →
    let active := s.ppu.mask.getLsbD 3 && s.ppu.mask.getLsbD 4 && (s.ppu.scanline ≤ 239 || s.ppu.scanline = 261)
    let r : Option Refusal := if active && 0x2000 ≤ a.toNat && a.toNat ≤ 0x3FFF then
        if a.toNat % 8 = 4 then some .oamAccessDuringRendering
        else if a.toNat % 8 = 7 then some .vramAccessDuringRendering else none
      else none
    (routeRead a s).2.refused = r ∧ (routeWrite a v s).refused = r

/-- The open-bus byte holds through 7776 counts after a register write and is 0 from the 7777th on (R464, R474). -/
def Obligations.OpenBusByteDecays : Prop :=
  ∀ (p : Ppu) (n : Nat), p.decayTimer = 7777 →
    (Ppu.decayStep^[n] p).ioLatch = (if n < 7777 then p.ioLatch else 0) ∧
      (Ppu.decayStep^[n] p).decayTimer = 7777 - n

/-- The dot counter. One tick, anywhere and whether or not rendering is enabled, moves one dot on, behind dot 340 to the next
line and behind line 261 to line 0 with the parity flipped; in an odd frame with rendering enabled it goes from dot 338 of
the pre-render line to 340. With rendering disabled the position after n ticks is n further, modulo 341 × 262 dots (R457,
R476, R483). -/
def Obligations.DotCounter : Prop :=
  (∀ s : State, let t := ppuTick s
     let skips := s.ppu.scanline = 261 ∧ s.ppu.dot = 338 ∧ s.ppu.oddFrame = true ∧ s.ppu.renderingEnabled = true
     t.ppu.dot = (if skips then 340 else if s.ppu.dot = 340 then 0 else s.ppu.dot + 1) ∧
     t.ppu.scanline = (if s.ppu.dot = 340 then if s.ppu.scanline = 261 then 0 else s.ppu.scanline + 1
       else s.ppu.scanline) ∧
     t.ppu.oddFrame = (if s.ppu.dot = 340 ∧ s.ppu.scanline = 261 then !s.ppu.oddFrame else s.ppu.oddFrame)) ∧
  (∀ (s : State) (n : Nat), s.ppu.renderingEnabled = false → s.ppu.scanline ≤ 261 → s.ppu.dot ≤ 340 →
     let t := ppuTick^[n] s
     341 * t.ppu.scanline + t.ppu.dot = (341 * s.ppu.scanline + s.ppu.dot + n) % 89342 ∧ t.ppu.dot ≤ 340)

/-- The scroll increments and copies: coarse X wraps into the next nametable at 31; the row wraps through fine Y and coarse
Y, at 29 into the other nametable and at 31 without; the copies take the bits of their masks from t (R516-R519). -/
def Obligations.ScrollMoves : Prop :=
  ∀ t v : VAddr,
    incrementCoarseX v = (if v.toNat % 32 = 31 then v ^^^ 0x041F else v + 1) ∧
    (v.toNat < 0x7000 → incrementY v = v + 0x1000) ∧
    (0x7000 ≤ v.toNat → incrementY v =
      (if v.toNat / 32 % 32 = 29 then (v &&& 0x0C1F) ^^^ 0x0800
      else if v.toNat / 32 % 32 = 31 then v &&& 0x0C1F else (v &&& 0x0FFF) + 0x20)) ∧
    (∀ k, (copyHorizontal t v).getLsbD k = (if k < 5 ∨ k = 10 then t.getLsbD k else v.getLsbD k)) ∧
    (∀ k, (copyVertical t v).getLsbD k = (if (5 ≤ k ∧ k < 10) ∨ (11 ≤ k ∧ k < 15) then t.getLsbD k else v.getLsbD k))

/-- Sprite evaluation finds the first eight of the sprites in range. With fewer than eight it leaves the overflow flag; with
eight, the scan goes on behind the eighth with a byte offset that moves with the sprite, and the flag is set when a byte so
read is in range, and kept otherwise. The pre-render line finds none and leaves the flag (R520, R521, R526). -/
def Obligations.SpriteEvaluation : Prop :=
  ∀ p : Ppu,
    let h := if p.ctrl.getLsbD 5 then 16 else 8
    let covers := fun y : Byte => y.toNat ≤ p.scanline ∧ p.scanline < y.toNat + h
    let found := (List.range 64).filter (fun n => covers (readCell p.oam (4 * n)))
    (p.scanline ≠ 261 → p.evaluateSprites.spr.count = min 8 found.length ∧
      (∀ i, i < min 8 found.length → ∀ n, found[i]? = some n → ∀ k, k < 4 →
        p.evaluateSprites.spr.byte (4 * i + k) = readCell p.oam (4 * n + k)) ∧
      (found.length < 8 → p.evaluateSprites.spriteOverflow = p.spriteOverflow) ∧
      (∀ eighth, found[7]? = some eighth → (p.evaluateSprites.spriteOverflow = true ↔ p.spriteOverflow = true ∨
        ∃ j, eighth + 1 + j < 64 ∧ covers (readCell p.oam (4 * (eighth + 1 + j) + j % 4))))) ∧
    (p.scanline = 261 → p.evaluateSprites.spr.count = 0 ∧ p.evaluateSprites.spriteOverflow = p.spriteOverflow)

/-- Sprite-zero hit after a dot: set where it was, unless the dot clears the frame's flags, and set at a visible dot with
rendering enabled, where an opaque background pixel meets an opaque pixel of slot zero, at any column but the parameter's;
at no other dot does it rise (R478, R530). -/
def Obligations.SpriteZeroHit : Prop :=
  ∀ (cfg : Params) (c : Cartridge) (p : Ppu), (p.executeDot cfg c).sprite0Hit = true ↔
    (p.sprite0Hit = true ∧ ¬ (p.scanline = 261 ∧ p.dot = 0)) ∨
    (p.renderingEnabled = true ∧ p.scanline ≤ 239 ∧ 1 ≤ p.dot ∧ p.dot ≤ 256 ∧
      (p.bgPixel (p.dot - 1)).1 ≠ 0 ∧ p.dot - 1 ≠ cfg.sprite0NoHitX.column ∧
      ∃ d, p.spritePixel (p.dot - 1) = some d ∧ d.slot = 0 ∧ d.value ≠ 0)

/-- A visible dot writes its own pixel and no other, with the emphasis bits and the colour masked by greyscale. The colour:
with rendering disabled the backdrop, and no sprite-zero hit; with rendering enabled the entry of the first opaque sprite
pixel unless it is behind an opaque background pixel, else that of an opaque background pixel, else the backdrop. The sprite
entries begin at 16, the background's at 0, four to a palette. What the two pixels are, from the shift registers and the
slots (R527-R529, R531-R533). -/
def Obligations.VisiblePixel : Prop :=
  (∀ (cfg : Params) (c : Cartridge) (p : Ppu) (y x : Nat), p.scanline ≤ 239 → 1 ≤ p.dot → p.dot ≤ 256 → y < 240 → x < 256 →
     let bg := p.bgPixel (p.dot - 1)
     let under := if bg.1 = 0 then readCell p.palette 0 else readCell p.palette (4 * bg.2.toNat + bg.1.toNat)
     let onTop := fun d : SpriteDot =>
       if bg.1 = 0 ∨ d.behind = false then readCell p.palette (16 + 4 * d.palette.toNat + d.value.toNat) else under
     let colour := if p.renderingEnabled then (p.spritePixel (p.dot - 1)).elim under onTop else readCell p.palette 0
     ((p.executeDot cfg c).frame[y]?.bind (fun row => row[x]?)) =
       (if y = p.scanline ∧ x = p.dot - 1 then
         some { colour := colour &&& (if p.mask.getLsbD 0 then 0x30 else 0x3F)
                emphasis := (p.mask >>> 5).setWidth 3 }
       else p.frame[y]?.bind (fun row => row[x]?)) ∧
     (p.renderingEnabled = false → (p.executeDot cfg c).sprite0Hit = p.sprite0Hit)) ∧
  (∀ (p : Ppu) (x : Nat),
     let k := p.scroll.x.toNat
     (p.bgPixel x).1.toNat = (if p.mask.getLsbD 3 = false ∨ (x < 8 ∧ p.mask.getLsbD 1 = false) then 0
       else 2 * num (p.bg.bgHi.getLsbD (15 - k)) + num (p.bg.bgLo.getLsbD (15 - k))) ∧
     (p.bgPixel x).2.toNat = (if p.mask.getLsbD 3 = false ∨ (x < 8 ∧ p.mask.getLsbD 1 = false) then 0
       else 2 * num (p.bg.atHi.getLsbD (7 - k)) + num (p.bg.atLo.getLsbD (7 - k)))) ∧
  (∀ (p : Ppu) (x : Nat) (d : SpriteDot),
     let value := fun i =>
       let slot := p.spr.slot i
       if slot.valid = true ∧ slot.x.toNat ≤ x ∧ x ≤ slot.x.toNat + 7 then
         2 * num (slot.hi.getLsbD (7 - (x - slot.x.toNat))) + num (slot.lo.getLsbD (7 - (x - slot.x.toNat)))
       else 0
     p.spritePixel x = some d ↔
       p.mask.getLsbD 4 = true ∧ (8 ≤ x ∨ p.mask.getLsbD 2 = true) ∧ d.slot < 8 ∧ value d.slot ≠ 0 ∧
         (∀ i, i < d.slot → value i = 0) ∧ d.value.toNat = value d.slot ∧
         d.palette.toNat = (p.spr.slot d.slot).attr.toNat % 4 ∧ d.behind = (p.spr.slot d.slot).attr.getLsbD 5)

/-! ## Cartridge and input -/

/-- The program mapping of every policy: the bank and the offset that a CPU address of program space reads. The bank registers
of all ids but 1 take every write to program space, ANDed under bus conflicts with the byte there in the banking before the
write (log 16, DEDUCED); id 0 takes none; each write is recorded, whatever the id (log 15, DEDUCED). The graphics mapping
of an image with graphics banks, in units of 8 KiB or 4 KiB, which takes no write, and of graphics RAM, which id 1 maps as
two units of 4 KiB and the others as it is (for id 3: log 13, DEDUCED), and which stores (R561-R565, R567, R569, R570, R574,
R576). -/
def Obligations.BankMapping : Prop :=
  (∀ (cfg : Params) (c : Cartridge) (a : Addr), 0x8000 ≤ a.toNat → 1 ≤ c.prgBanks →
     let low := a.toNat < 0xC000
     let p := c.prgReg.toNat % 16
     let at_ := fun bank => readCell c.prg (0x4000 * bank + a.toNat % 0x4000)
     (c.mapper = .fixed ∨ c.mapper = .graphicsSwitch →
       (c.prgBanks = 1 → readProgram cfg c a = at_ 0) ∧
       (c.prgBanks = 2 → readProgram cfg c a = at_ (if low then 0 else 1))) ∧
     (c.mapper = .lowSwitch → readProgram cfg c a =
       at_ (if low then c.prgBank.toNat % c.prgBanks else c.prgBanks - 1)) ∧
     (c.mapper = .highSwitch → readProgram cfg c a =
       at_ (if low then (if cfg.highSwitchFixedBank = .first then 0 else c.prgBanks - 1)
         else c.prgBank.toNat % c.prgBanks)) ∧
     (c.mapper = .shiftRegister → readProgram cfg c a =
       at_ (if c.control.toNat / 4 % 4 = 3 then (if low then p % c.prgBanks else c.prgBanks - 1)
         else if c.control.toNat / 4 % 4 = 2 then (if low then 0 else p % c.prgBanks)
         else (p / 2 * 2 + (if low then 0 else 1)) % c.prgBanks))) ∧
  (∀ (cfg : Params) (c : Cartridge) (a : Addr) (v : Byte) (n : Nat),
     let w := if cfg.busConflicts then v &&& readProgram cfg c a else v
     (c.mapper = .fixed → writeBankSelect cfg n c a v = { c with lastWriteCycle := some n }) ∧
     (c.mapper = .lowSwitch ∨ c.mapper = .highSwitch →
       writeBankSelect cfg n c a v = { c with prgBank := w, lastWriteCycle := some n }) ∧
     (c.mapper = .graphicsSwitch → writeBankSelect cfg n c a v = { c with chrBank := w, lastWriteCycle := some n })) ∧
  (∀ (c : Cartridge) (a : Nat), a ≤ 0x1FFF → 1 ≤ c.chrBanks →
     (c.mapper = .graphicsSwitch →
       readGraphics c a = readCell c.chr (0x2000 * (c.chrBank.toNat % c.chrBanks) + a)) ∧
     (c.mapper = .shiftRegister → readGraphics c a = readCell c.chr
       (if c.control.toNat / 16 = 1 then
         0x1000 * ((if a ≤ 0x0FFF then c.chr0.toNat else c.chr1.toNat) % (2 * c.chrBanks)) + a % 0x1000
       else 0x2000 * (c.chr0.toNat / 2 % c.chrBanks) + a)) ∧
     (c.mapper ≠ .graphicsSwitch → c.mapper ≠ .shiftRegister → readGraphics c a = readCell c.chr a) ∧
     (∀ v, writeGraphics c a v = c)) ∧
  (∀ (c : Cartridge) (a : Nat) (v : Byte), a ≤ 0x1FFF → c.chrBanks = 0 →
     let cell := if c.mapper = .shiftRegister ∧ c.control.toNat / 16 = 1 then
         0x1000 * ((if a ≤ 0x0FFF then c.chr0.toNat else c.chr1.toNat) % 2) + a % 0x1000
       else a
     readGraphics c a = readCell c.chrRam cell ∧
       writeGraphics c a v = { c with chrRam := writeCell c.chrRam cell v })

/-- The serial register of id 1. Five writes with bit 7 clear, no two in cycles that follow one another where that is heeded,
commit their low bits, the first as bit 0, to the register that the fifth address selects, and empty the serial register. A
write with bit 7 set empties it and sets the program mode 3. A write in the cycle after another is ignored but recorded
(R566, R567). -/
def Obligations.SerialWrites : Prop :=
  (∀ (cfg : Params) (c : Cartridge) (a a1 a2 a3 a4 : Addr) (v1 v2 v3 v4 v5 : Byte) (n1 n2 n3 n4 n5 : Nat),
     c.mapper = .shiftRegister → c.shiftCount = 0 →
     (cfg.mmc1IgnoreConsecutive = true → (∀ k, c.lastWriteCycle = some k → k + 1 < n1) ∧ n1 + 1 < n2 ∧ n2 + 1 < n3 ∧
       n3 + 1 < n4 ∧ n4 + 1 < n5) →
     v1.getLsbD 7 = false → v2.getLsbD 7 = false → v3.getLsbD 7 = false → v4.getLsbD 7 = false →
     v5.getLsbD 7 = false →
     let c4 := writeBankSelect cfg n4 (writeBankSelect cfg n3 (writeBankSelect cfg n2
       (writeBankSelect cfg n1 c a1 v1) a2 v2) a3 v3) a4 v4
     let value : BitVec 5 := BitVec.ofNat 5 (num (v1.getLsbD 0) + 2 * num (v2.getLsbD 0) + 4 * num (v3.getLsbD 0) +
       8 * num (v4.getLsbD 0) + 16 * num (v5.getLsbD 0))
     let empty := { c with shift := 0, shiftCount := 0, lastWriteCycle := some n5 }
     (0x8000 ≤ a.toNat ∧ a.toNat < 0xA000 → writeBankSelect cfg n5 c4 a v5 = { empty with control := value }) ∧
     (0xA000 ≤ a.toNat ∧ a.toNat < 0xC000 → writeBankSelect cfg n5 c4 a v5 = { empty with chr0 := value }) ∧
     (0xC000 ≤ a.toNat ∧ a.toNat < 0xE000 → writeBankSelect cfg n5 c4 a v5 = { empty with chr1 := value }) ∧
     (0xE000 ≤ a.toNat → writeBankSelect cfg n5 c4 a v5 = { empty with prgReg := value })) ∧
  (∀ (cfg : Params) (c : Cartridge) (a : Addr) (v : Byte) (n : Nat), c.mapper = .shiftRegister →
     (cfg.mmc1IgnoreConsecutive = true → c.lastWriteCycle = some n →
       writeBankSelect cfg (n + 1) c a v = { c with lastWriteCycle := some (n + 1) }) ∧
     (v.getLsbD 7 = true → (cfg.mmc1IgnoreConsecutive = true → ∀ k, c.lastWriteCycle = some k → n ≠ k + 1) →
       writeBankSelect cfg n c a v =
         { c with shift := 0, shiftCount := 0, control := c.control ||| 0x0C, lastWriteCycle := some n }))

/-- The nametable mirroring: which half of CIRAM each of the four logical nametables and their upper mirror select (R451,
R568, R572). -/
def Obligations.NametableMirroring : Prop :=
  ∀ (c : Cartridge) (table offset : Nat), table < 4 → offset < 0x400 →
    let one := c.mapper = .shiftRegister
    let m := c.control.toNat % 4
    let page := if one then
        (if m = 0 then 0 else if m = 1 then 1 else if m = 2 then table % 2 else table / 2)
      else if c.headerMirroring = .vertical then table % 2 else table / 2
    mirrorNametableAddress c (0x2000 + 0x400 * table + offset) = 0x400 * page + offset ∧
      mirrorNametableAddress c (0x3000 + 0x400 * table + offset) = 0x400 * page + offset

/-- After a strobe write with bit 0 set, the reads of a controller give the bits of the buttons from bit 0 up, then ones;
the other seven bits are always the open ones (R581, R582). -/
def Obligations.ControllerReads : Prop :=
  ∀ (s : State) (v : Byte) (n : Nat), v.getLsbD 0 = true →
    let k := strobeWrite v s
    let r0 := controllerRead0 ((fun t => (controllerRead0 t).2)^[n] k)
    let r1 := controllerRead1 ((fun t => (controllerRead1 t).2)^[n] k)
    r0.1.getLsbD 0 = (if n < 8 then s.pads.buttons0.getLsbD n else true) ∧
    r1.1.getLsbD 0 = (if n < 8 then s.pads.buttons1.getLsbD n else true) ∧
    r0.1 &&& 0xFE = Config.controllerHighBits &&& 0xFE ∧ r1.1 &&& 0xFE = Config.controllerHighBits &&& 0xFE ∧
    r0.2.pads.shift1 = k.pads.shift1 ∧ r1.2.pads.shift0 = k.pads.shift0

/-- The sprite DMA from a page of work RAM, where no access is refused: the 256 bytes of the page go to OAM from the OAM
address on, which ends where it began, in 513 cycles, or 514 from an odd count; the register file and RAM stay (R590-R592). -/
def Obligations.SpriteDma : Prop :=
  ∀ (s : State) (page : Byte), page.toNat < 0x20 → s.refused = none → s.calm 514 = true →
    let t := oamDma page s
    t.refused = none ∧ t.dmaReq = none ∧ t.cpu = s.cpu ∧ t.ram = s.ram ∧ t.cart = s.cart ∧
      t.ppu.oamaddr = s.ppu.oamaddr ∧
      t.totalCycles = s.totalCycles + (if (s.totalCycles + s.cfg.dmaParityPhase.val) % 2 = 1 then 514 else 513) ∧
      ∀ i : Byte, readCell t.ppu.oam (s.ppu.oamaddr + i).toNat = s.byteAt (word page i)

/-! ## Reset, the host, the invariant -/

/-- Power-on: every piece of state at its value of R621, seven cycles and 21 dots later, the pc at the reset vector, and the
memories, the parameters and the buttons as the host gave them (R404, R462, R571, R575, R580, R620, R621). That the interrupt
time is an input, and the audio unit has seen nothing, is the model's form (log 5). -/
def Obligations.PowerOn : Prop :=
  ∀ k : PowerOnInputs, let t := powerOn k
    t.cpu = { a := 0, x := 0, y := 0, s := 0xFD,
              pc := word (readProgram k.cfg t.cart 0xFFFD) (readProgram k.cfg t.cart 0xFFFC),
              p := { n := false, v := false, d := false, i := true, z := false, c := false } } ∧
    t.intr = { nmiLine := false, nmiLatched := false, intDue := false } ∧ t.dmaReq = none ∧ t.refused = none ∧
    t.clock = 7 ∧ t.totalCycles = 7 ∧ t.ram = k.ram ∧ t.cfg = k.cfg ∧
    t.cart = { k.cart with
      prgBank := 0, chrBank := 0, shift := 0, shiftCount := 0, control := 0x0C, chr0 := 0, chr1 := 0, prgReg := 0
      lastWriteCycle := none } ∧
    t.ppu = {
      ctrl := 0, mask := 0, vblank := false, sprite0Hit := false, spriteOverflow := false, oamaddr := 0
      readBuffer := 0, ioLatch := 0, decayTimer := 0, scroll := { v := 0, t := 0, x := 0, w := false }
      scanline := 261, dot := 21, oddFrame := false, frameComplete := false
      bg := { ntLatch := 0, atLatch := 0, ptlLatch := 0, pthLatch := 0, bgLo := 0, bgHi := 0, atLo := 0, atHi := 0,
              atFeedLo := false, atFeedHi := false }
      spr := { secondary := Vector.replicate 32 0, count := 0,
               slots := Vector.replicate 8 { valid := false, lo := 0, hi := 0, attr := 0, x := 0 } }
      oam := k.oam, ciram := k.ciram, palette := k.palette
      frame := Vector.replicate 240 (Vector.replicate 256 { colour := 0, emphasis := 0 }) } ∧
    t.pads = { shift0 := 0, shift1 := 0, strobe := false, buttons0 := k.buttons0, buttons1 := k.buttons1 } ∧
    t.audio = { events := [], irqTime := k.irqTime }

/-- `end_frame` restarts the clock and tells the audio boundary, whose interrupt time is the same moment in the rebased clock,
and changes nothing else; between two of them every step moves the clock and the count since power-on forward alike (R56,
R414, R641). The rebase as an event in a list, and the interrupt time as a field, are the model's form (log 5). -/
def Obligations.ClocksMoveTogether : Prop :=
  ∀ s : State, endFrame s = { s with
      clock := 0
      audio := { events := .rebase s.clock :: s.audio.events, irqTime := s.audio.irqTime.map (· - s.clock) } } ∧
    (∀ n, (endFrame s).audio.irqTime.any (· ≤ n) = s.audio.irqTime.any (· ≤ s.clock + n)) ∧
    ∀ t, step s = .next t → s.clock < t.clock ∧ t.clock - s.clock = t.totalCycles - s.totalCycles

/-- `run_for(n)` ends with the clock advanced by at least n and at most n + 520: the last step begins with at most n - 1 gone
and lasts at most 7 + 514 cycles (R641). -/
def Obligations.RunForOvershoots : Prop :=
  ∀ (n : Nat) (s t : State), runFor n s = .next t → s.clock + n ≤ t.clock ∧ t.clock ≤ s.clock + n + 520

/-- The invariant holds after reset. -/
def Obligations.ResetInvariant : Prop := State.reset.inv = true

/-- Every step that answers a next state keeps the invariant: memories in canonical form and of their sizes, counters in
range, the NMI line at its level (R57, R411, R452-R457, R510, R566). -/
def Obligations.StepKeepsInvariant : Prop :=
  ∀ s t : State, s.inv = true → step s = .next t → t.inv = true
end

