-- ==== Sys2Proof/Laws/Memory.lean ====
section
/-!
SUPPORT. The laws of the memories: a read after a write, and the canonical form that every write keeps.
-/

namespace Sys2Proof.Machine

variable {n : Nat}

@[simp] theorem readCell_nil (a : Nat) : readCell ([] : Cells n) a = 0#n := rfl

theorem readCell_eraseCell_same (m : Cells n) (a : Nat) : readCell (eraseCell m a) a = unlisted n := by
  induction m with
  | nil => rfl
  | cons c m ih =>
    by_cases h : c.1 = a
    · simpa [eraseCell, h] using ih
    · have h' : (c.1 != a) = true := by simpa using h
      simp only [eraseCell, List.filter_cons, h', if_true, readCell]
      rw [if_neg (fun e => h e.symm)]
      exact ih

theorem readCell_eraseCell_of_ne (m : Cells n) {a b : Nat} (h : b ≠ a) :
    readCell (eraseCell m a) b = readCell m b := by
  induction m with
  | nil => rfl
  | cons c m ih =>
    have ih' : readCell (List.filter (fun c => c.1 != a) m) b = readCell m b := ih
    by_cases hc : c.1 = a
    · have hb : ¬ b = c.1 := by omega
      simp [eraseCell, hc, readCell, ih']
      intro e
      omega
    · simp [eraseCell, hc, readCell, ih']

theorem readCell_insertCell (m : Cells n) (a : Nat) (v : BitVec n) (b : Nat) (h : readCell m a = unlisted n)
    (hm : ∀ c ∈ m, c.1 ≠ a) : readCell (insertCell m a v) b = if b = a then v else readCell m b := by
  induction m with
  | nil => simp [insertCell, readCell]
  | cons c m ih =>
    have hc : c.1 ≠ a := hm c (by simp)
    have hm' : ∀ d ∈ m, d.1 ≠ a := fun d hd => hm d (by simp [hd])
    have h' : readCell m a = unlisted n := by
      simpa [readCell, hc.symm] using h
    unfold insertCell
    split
    · simp [readCell]
    · by_cases hb : b = c.1
      · subst hb
        simp [readCell, hc]
      · simp [readCell, hb, ih h' hm']

theorem eraseCell_ne (m : Cells n) (a : Nat) : ∀ c ∈ eraseCell m a, c.1 ≠ a := by
  intro c hc
  simpa using (List.mem_filter.1 hc).2

/-- A read after a write: the value written at its address, every other address as before (R109). -/
@[simp] theorem readCell_writeCell (m : Cells n) (a : Nat) (v : BitVec n) (b : Nat) :
    readCell (writeCell m a v) b = if b = a then v else readCell m b := by
  unfold writeCell
  by_cases hv : v = unlisted n
  · rw [if_pos hv]
    by_cases hb : b = a
    · rw [if_pos hb, hb, hv, readCell_eraseCell_same]
    · rw [if_neg hb, readCell_eraseCell_of_ne m hb]
  · rw [if_neg hv, readCell_insertCell _ _ _ _ (readCell_eraseCell_same m a) (eraseCell_ne m a)]
    by_cases hb : b = a
    · simp [hb]
    · simp [hb, readCell_eraseCell_of_ne m hb]

theorem wf_cons {c : Nat × BitVec n} {m : Cells n} :
    Cells.wf (c :: m) = true ↔ c.2 ≠ unlisted n ∧ (∀ d ∈ m, c.1 < d.1) ∧ Cells.wf m = true := by
  obtain ⟨a, v⟩ := c
  simp [Cells.wf, and_assoc]

theorem mem_eraseCell {m : Cells n} {a : Nat} {c : Nat × BitVec n} :
    c ∈ eraseCell m a ↔ c ∈ m ∧ c.1 ≠ a := by
  simp [eraseCell, List.mem_filter]

theorem wf_eraseCell {m : Cells n} (a : Nat) (h : Cells.wf m = true) : Cells.wf (eraseCell m a) = true := by
  induction m with
  | nil => rfl
  | cons c m ih =>
    obtain ⟨h1, h2, h3⟩ := wf_cons.1 h
    have e : eraseCell (c :: m) a = if c.1 ≠ a then c :: eraseCell m a else eraseCell m a := by
      by_cases hc : c.1 = a <;> simp [eraseCell, hc]
    rw [e]
    split
    · exact wf_cons.2 ⟨h1, fun d hd => h2 d (mem_eraseCell.1 hd).1, ih h3⟩
    · exact ih h3

theorem mem_insertCell {m : Cells n} {a : Nat} {v : BitVec n} {c : Nat × BitVec n} :
    c ∈ insertCell m a v ↔ c = (a, v) ∨ c ∈ m := by
  induction m with
  | nil => simp [insertCell]
  | cons d m ih =>
    unfold insertCell
    split
    · simp
    · simp only [List.mem_cons, ih]
      tauto

theorem wf_insertCell {m : Cells n} {a : Nat} {v : BitVec n} (hv : v ≠ unlisted n) (hm : ∀ c ∈ m, c.1 ≠ a)
    (h : Cells.wf m = true) : Cells.wf (insertCell m a v) = true := by
  induction m with
  | nil => simp [insertCell, Cells.wf, hv]
  | cons d m ih =>
    obtain ⟨h1, h2, h3⟩ := wf_cons.1 h
    unfold insertCell
    split
    · rename_i hlt
      refine wf_cons.2 ⟨hv, fun e he => ?_, h⟩
      rcases List.mem_cons.1 he with rfl | he
      · exact hlt
      · exact lt_trans hlt (h2 e he)
    · rename_i hlt
      have hd : d.1 ≠ a := hm d (by simp)
      refine wf_cons.2 ⟨h1, fun e he => ?_, ih (fun c hc => hm c (by simp [hc])) h3⟩
      rcases mem_insertCell.1 he with rfl | he
      · show d.1 < a
        omega
      · exact h2 e he

/-- Every write keeps the canonical form. -/
theorem wf_writeCell {m : Cells n} (a : Nat) (v : BitVec n) (h : Cells.wf m = true) :
    Cells.wf (writeCell m a v) = true := by
  unfold writeCell
  split
  · exact wf_eraseCell a h
  · exact wf_insertCell (by assumption) (eraseCell_ne m a) (wf_eraseCell a h)

theorem below_iff {m : Cells n} {size : Nat} : Cells.below m size = true ↔ ∀ c ∈ m, c.1 < size := by
  simp [Cells.below]

/-- A write below a bound keeps every cell below it. -/
theorem below_writeCell {m : Cells n} {a size : Nat} (v : BitVec n) (ha : a < size)
    (h : Cells.below m size = true) : Cells.below (writeCell m a v) size = true := by
  rw [below_iff] at h ⊢
  intro c hc
  unfold writeCell at hc
  split at hc
  · exact h c (mem_eraseCell.1 hc).1
  · rcases mem_insertCell.1 hc with rfl | hc
    · exact ha
    · exact h c (mem_eraseCell.1 hc).1

/-- Two memories in canonical form that read alike at every address are equal data. -/
theorem ext_of_wf {m k : Cells n} (hm : Cells.wf m = true) (hk : Cells.wf k = true)
    (h : ∀ a, readCell m a = readCell k a) : m = k := by
  have low : ∀ {m : Cells n} {a : Nat}, (∀ d ∈ m, a < d.1) → readCell m a = unlisted n := by
    intro m a hlt
    induction m with
    | nil => rfl
    | cons c m ih =>
      have hc : ¬ a = c.1 := by
        have := hlt c (by simp)
        omega
      simp only [readCell, hc, if_false]
      exact ih (fun d hd => hlt d (by simp [hd]))
  induction m generalizing k with
  | nil =>
    cases k with
    | nil => rfl
    | cons d k =>
      have := h d.1
      simp only [readCell, if_true] at this
      exact absurd this.symm (wf_cons.1 hk).1
  | cons c m ih =>
    obtain ⟨c1, c2, c3⟩ := wf_cons.1 hm
    cases k with
    | nil =>
      have := h c.1
      simp only [readCell, if_true] at this
      exact absurd this c1
    | cons d k =>
      obtain ⟨d1, d2, d3⟩ := wf_cons.1 hk
      have hcd : c.1 = d.1 := by
        rcases lt_trichotomy c.1 d.1 with hlt | heq | hgt
        · have e := h c.1
          have : readCell (d :: k) c.1 = unlisted n := low (fun x hx => by
            rcases List.mem_cons.1 hx with rfl | hx
            · exact hlt
            · exact lt_trans hlt (d2 x hx))
          rw [this] at e
          simp only [readCell, if_true] at e
          exact absurd e c1
        · exact heq
        · have e := h d.1
          have : readCell (c :: m) d.1 = unlisted n := low (fun x hx => by
            rcases List.mem_cons.1 hx with rfl | hx
            · exact hgt
            · exact lt_trans hgt (c2 x hx))
          rw [this] at e
          simp only [readCell, if_true] at e
          exact absurd e.symm d1
      have hv : c.2 = d.2 := by
        have e := h c.1
        simpa [readCell, hcd] using e
      have htail : m = k := ih c3 d3 (fun a => by
        by_cases ha : a = c.1
        · rw [ha, low c2, hcd, low d2]
        · have e := h a
          simpa [readCell, ha, hcd ▸ ha] using e)
      rw [htail]
      congr 1
      exact Prod.ext hcd hv

end Sys2Proof.Machine
end

