-- ==== Sys2Proof/Laws/Ppu.lean ====
section
/-!
SUPPORT. What a dot and a tick of the PPU can change: one relation for what every part of a dot keeps, and from it one
lemma per field; the vblank flag; the dot counter; the bound of the sprite count.
-/

namespace Sys2Proof.Machine

/-- What no dot changes: the registers, the memories, the latch, the counters and the fields t, x, w. -/
structure Ppu.DotKeeps (p q : Ppu) : Prop where
  ctrl : q.ctrl = p.ctrl
  mask : q.mask = p.mask
  readBuffer : q.readBuffer = p.readBuffer
  ioLatch : q.ioLatch = p.ioLatch
  decayTimer : q.decayTimer = p.decayTimer
  t : q.scroll.t = p.scroll.t
  x : q.scroll.x = p.scroll.x
  w : q.scroll.w = p.scroll.w
  scanline : q.scanline = p.scanline
  dot : q.dot = p.dot
  oddFrame : q.oddFrame = p.oddFrame
  oam : q.oam = p.oam
  ciram : q.ciram = p.ciram
  palette : q.palette = p.palette

namespace Ppu.DotKeeps

variable {p q r : Ppu}

theorem refl (p : Ppu) : DotKeeps p p := ⟨rfl, rfl, rfl, rfl, rfl, rfl, rfl, rfl, rfl, rfl, rfl, rfl, rfl, rfl⟩

theorem trans (h : DotKeeps p q) (k : DotKeeps q r) : DotKeeps p r := by
  constructor
  exacts [k.ctrl.trans h.ctrl, k.mask.trans h.mask, k.readBuffer.trans h.readBuffer, k.ioLatch.trans h.ioLatch,
    k.decayTimer.trans h.decayTimer, k.t.trans h.t, k.x.trans h.x, k.w.trans h.w, k.scanline.trans h.scanline,
    k.dot.trans h.dot, k.oddFrame.trans h.oddFrame, k.oam.trans h.oam, k.ciram.trans h.ciram,
    k.palette.trans h.palette]

theorem doIf {f : Ppu → Ppu} (b : Bool) (hf : ∀ q, DotKeeps q (f q)) (h : DotKeeps p q) :
    DotKeeps p (Machine.doIf b f q) := by
  cases b
  · exact h
  · exact h.trans (hf q)

theorem mapV (f : VAddr → VAddr → VAddr) (p : Ppu) : DotKeeps p (p.mapV f) := by constructor <;> rfl

theorem bgFetch (c : Cartridge) (k : Nat) (p : Ppu) : DotKeeps p (p.bgFetch c k) := by
  unfold Ppu.bgFetch
  split_ifs <;> constructor <;> rfl

theorem bgDot (c : Cartridge) (d : Nat) (p : Ppu) : DotKeeps p (p.bgDot c d) :=
  trans (q := { p with bg := p.bg.shift }) (by constructor <;> rfl) (bgFetch c _ _)

theorem evaluateSprites (p : Ppu) : DotKeeps p p.evaluateSprites := by
  unfold Ppu.evaluateSprites
  dsimp only
  split_ifs <;> constructor <;> rfl

theorem fetchSprite (c : Cartridge) (i : Nat) (p : Ppu) : DotKeeps p (p.fetchSprite c i) := by constructor <;> rfl

theorem outputPixel (cfg : Params) (x : Nat) (p : Ppu) : DotKeeps p (p.outputPixel cfg x) := by constructor <;> rfl

theorem frameDot (cfg : Params) (p : Ppu) : DotKeeps p (p.frameDot cfg) :=
  doIf _ (outputPixel cfg _) (doIf _ (fun q => by constructor <;> rfl) (doIf _ (fun q => by constructor <;> rfl)
    (doIf _ (fun q => by constructor <;> rfl) (refl p))))

theorem renderDot (c : Cartridge) (p : Ppu) : DotKeeps p (p.renderDot c) :=
  doIf _ (fetchSprite c _) (doIf _ (mapV _) (doIf _ (fun q => by constructor <;> rfl) (doIf _ (mapV _)
    (doIf _ evaluateSprites (doIf _ (mapV _) (doIf _ (bgDot c _) (refl p)))))))

/-- Everything `execute_dot` keeps. -/
theorem executeDot (cfg : Params) (c : Cartridge) (p : Ppu) : DotKeeps p (p.executeDot cfg c) :=
  doIf _ (renderDot c) (frameDot cfg p)

end Ppu.DotKeeps

variable (cfg : Params) (c : Cartridge) (p : Ppu)

/-- `decay_step` changes only the latch and its timer. -/
theorem decayStep_eq : p.decayStep =
    { p with
      decayTimer := p.decayTimer - 1
      ioLatch := if p.decayTimer = 1 then 0 else p.ioLatch } := by
  unfold Ppu.decayStep
  by_cases h : 0 < p.decayTimer
  · by_cases h' : p.decayTimer = 1
    · simp [h']
    · simp [h, h']
  · have h0 : p.decayTimer - 1 = p.decayTimer := by omega
    have h1 : p.decayTimer ≠ 1 := by omega
    rw [h0, if_neg h, if_neg h1]

/-- The advance changes only the counters. -/
theorem advance_eq : p.advance =
    { p with dot := p.advance.dot, scanline := p.advance.scanline, oddFrame := p.advance.oddFrame } := by
  unfold Ppu.advance
  dsimp only
  split_ifs <;> rfl

/-- The PPU after a tick, from the PPU after its dot. -/
theorem tick_eq : p.tick cfg c = (if cfg.decayUnit = .dot then (p.executeDot cfg c).decayStep else
    p.executeDot cfg c).advance := by
  unfold Ppu.tick doIf
  by_cases h : cfg.decayUnit = .dot <;> simp [h]

/-- A field that neither the decay nor the advance writes is after a tick what the dot leaves. -/
theorem tick_field {α : Type} (g : Ppu → α) (hd : ∀ q, g (Ppu.decayStep q) = g q) (ha : ∀ q, g (Ppu.advance q) = g q) :
    g (p.tick cfg c) = g (p.executeDot cfg c) := by
  rw [tick_eq, ha]
  split_ifs
  · exact hd _
  · rfl

theorem decayStep_advance_field {α : Type} (g : Ppu → α)
    (h : ∀ q : Ppu, ∀ t l d s o, g { q with decayTimer := t, ioLatch := l, dot := d, scanline := s, oddFrame := o } = g q) :
    (∀ q, g (Ppu.decayStep q) = g q) ∧ (∀ q, g (Ppu.advance q) = g q) := by
  constructor <;> intro q
  · rw [decayStep_eq]
    exact h q _ _ q.dot q.scanline q.oddFrame
  · rw [advance_eq]
    exact h q q.decayTimer q.ioLatch _ _ _

/-- A field that the counters and the latch do not touch is after a tick what the dot leaves. -/
theorem tick_of_dot {α : Type} (g : Ppu → α)
    (h : ∀ q : Ppu, ∀ t l d s o, g { q with decayTimer := t, ioLatch := l, dot := d, scanline := s, oddFrame := o } = g q) :
    g (p.tick cfg c) = g (p.executeDot cfg c) :=
  tick_field cfg c p g (decayStep_advance_field g h).1 (decayStep_advance_field g h).2

@[simp] theorem tick_ctrl : (p.tick cfg c).ctrl = p.ctrl :=
  (tick_of_dot cfg c p Ppu.ctrl (fun _ _ _ _ _ _ => rfl)).trans (Ppu.DotKeeps.executeDot cfg c p).ctrl

@[simp] theorem tick_mask : (p.tick cfg c).mask = p.mask :=
  (tick_of_dot cfg c p Ppu.mask (fun _ _ _ _ _ _ => rfl)).trans (Ppu.DotKeeps.executeDot cfg c p).mask

@[simp] theorem tick_readBuffer : (p.tick cfg c).readBuffer = p.readBuffer :=
  (tick_of_dot cfg c p Ppu.readBuffer (fun _ _ _ _ _ _ => rfl)).trans (Ppu.DotKeeps.executeDot cfg c p).readBuffer

@[simp] theorem tick_oam : (p.tick cfg c).oam = p.oam :=
  (tick_of_dot cfg c p Ppu.oam (fun _ _ _ _ _ _ => rfl)).trans (Ppu.DotKeeps.executeDot cfg c p).oam

@[simp] theorem tick_ciram : (p.tick cfg c).ciram = p.ciram :=
  (tick_of_dot cfg c p Ppu.ciram (fun _ _ _ _ _ _ => rfl)).trans (Ppu.DotKeeps.executeDot cfg c p).ciram

@[simp] theorem tick_palette : (p.tick cfg c).palette = p.palette :=
  (tick_of_dot cfg c p Ppu.palette (fun _ _ _ _ _ _ => rfl)).trans (Ppu.DotKeeps.executeDot cfg c p).palette

@[simp] theorem tick_t : (p.tick cfg c).scroll.t = p.scroll.t :=
  (tick_of_dot cfg c p (fun q => q.scroll.t) (fun _ _ _ _ _ _ => rfl)).trans (Ppu.DotKeeps.executeDot cfg c p).t

@[simp] theorem tick_x : (p.tick cfg c).scroll.x = p.scroll.x :=
  (tick_of_dot cfg c p (fun q => q.scroll.x) (fun _ _ _ _ _ _ => rfl)).trans (Ppu.DotKeeps.executeDot cfg c p).x

@[simp] theorem tick_w : (p.tick cfg c).scroll.w = p.scroll.w :=
  (tick_of_dot cfg c p (fun q => q.scroll.w) (fun _ _ _ _ _ _ => rfl)).trans (Ppu.DotKeeps.executeDot cfg c p).w

@[simp] theorem tick_renderingEnabled : (p.tick cfg c).renderingEnabled = p.renderingEnabled := by
  simp [Ppu.renderingEnabled, Ppu.showBg, Ppu.showSprites]

@[simp] theorem tick_nmiEnable : (p.tick cfg c).nmiEnable = p.nmiEnable := by
  simp [Ppu.nmiEnable]

/-- With rendering disabled a dot is its frame events and its pixel (R511). -/
theorem executeDot_of_disabled (h : p.renderingEnabled = false) : p.executeDot cfg c = p.frameDot cfg := by
  have hm : (p.frameDot cfg).renderingEnabled = false := by
    simpa [Ppu.renderingEnabled, Ppu.showBg, Ppu.showSprites, (Ppu.DotKeeps.frameDot cfg p).mask] using h
  simp [Ppu.executeDot, Ppu.renderingActive, hm, doIf]

/-- The vblank flag after a dot: set at (241, 0), cleared at (261, 0) (R477, R478). -/
theorem executeDot_vblank : (p.executeDot cfg c).vblank =
    (if p.scanline = 241 ∧ p.dot = 0 then true else if p.scanline = 261 ∧ p.dot = 0 then false else p.vblank) := by
  have hr : ∀ q : Ppu, (q.renderDot c).vblank = q.vblank := by
    intro q
    have hd : ∀ (b : Bool) (f : Ppu → Ppu) (k : Ppu), (∀ k, (f k).vblank = k.vblank) → (doIf b f k).vblank = k.vblank := by
      intro b f k h
      cases b
      · rfl
      · exact h k
    have hb : ∀ d k, (Ppu.bgDot c d k).vblank = k.vblank := by
      intro d k
      unfold Ppu.bgDot Ppu.bgFetch
      split_ifs <;> rfl
    have he : ∀ k : Ppu, k.evaluateSprites.vblank = k.vblank := by
      intro k
      unfold Ppu.evaluateSprites
      dsimp only
      split_ifs <;> rfl
    unfold Ppu.renderDot
    dsimp only
    refine (hd _ _ _ ?_).trans ((hd _ _ _ ?_).trans ((hd _ _ _ ?_).trans ((hd _ _ _ ?_).trans
      ((hd _ _ _ he).trans ((hd _ _ _ ?_).trans (hd _ _ _ (hb _)))))))
    all_goals exact fun k => rfl
  have hf : ∀ q : Ppu, (doIf q.renderingActive (Ppu.renderDot c) q).vblank = q.vblank := by
    intro q
    unfold doIf
    split_ifs
    · exact hr q
    · rfl
  have ho : ∀ (b : Bool) (x : Nat) (q : Ppu), (doIf b (Ppu.outputPixel cfg x) q).vblank = q.vblank := by
    intro b x q
    cases b <;> rfl
  have hc : ∀ (b : Bool) (q : Ppu), (doIf b Ppu.setFrameComplete q).vblank = q.vblank := by
    intro b q
    cases b <;> rfl
  unfold Ppu.executeDot
  dsimp only
  rw [hf]
  unfold Ppu.frameDot
  dsimp only
  rw [ho, hc]
  by_cases h1 : p.scanline = 241 ∧ p.dot = 0
  · obtain ⟨h1, h2⟩ := h1
    simp [doIf, h1, h2, Ppu.vblankStart]
  · by_cases h2 : p.scanline = 261 ∧ p.dot = 0
    · obtain ⟨h2, h3⟩ := h2
      simp [doIf, h2, h3, Ppu.clearFrameFlags]
    · simp [doIf, h1, h2]

theorem tick_vblank : (p.tick cfg c).vblank = (p.executeDot cfg c).vblank :=
  tick_of_dot cfg c p Ppu.vblank (fun _ _ _ _ _ _ => rfl)

/-- The counter after a tick is its advance from the position of the dot (R476). -/
theorem tick_position : (p.tick cfg c).scanline = p.advance.scanline ∧ (p.tick cfg c).dot = p.advance.dot ∧
    (p.tick cfg c).oddFrame = p.advance.oddFrame := by
  have k := Ppu.DotKeeps.executeDot cfg c p
  have hs : ∀ q : Ppu, q.mask = p.mask → q.scanline = p.scanline → q.dot = p.dot → q.oddFrame = p.oddFrame →
      q.advance.scanline = p.advance.scanline ∧ q.advance.dot = p.advance.dot ∧
        q.advance.oddFrame = p.advance.oddFrame := by
    intro q h1 h2 h3 h4
    unfold Ppu.advance Ppu.skipsDot Ppu.renderingEnabled Ppu.showBg Ppu.showSprites
    simp only [h1, h2, h3, h4]
    split_ifs <;> simp
  rw [tick_eq]
  split_ifs
  · rw [decayStep_eq]
    exact hs _ k.mask k.scanline k.dot k.oddFrame
  · exact hs _ k.mask k.scanline k.dot k.oddFrame

/-- The counter stays in range (R457). -/
theorem advance_inRange (hs : p.scanline ≤ 261) (hd : p.dot ≤ 340) :
    p.advance.scanline ≤ 261 ∧ p.advance.dot ≤ 340 := by
  unfold Ppu.advance
  dsimp only
  have : (if p.skipsDot then 340 else p.dot + 1) ≤ 341 := by split_ifs <;> omega
  generalize (if p.skipsDot then 340 else p.dot + 1) = k at this
  split_ifs <;> simp <;> omega

/-- Evaluation finds at most eight sprites (R510, R520). -/
theorem findSprites_count (oam : Mem) (h s fuel : Nat) (k : Scan) (hk : k.count ≤ 8) :
    (findSprites oam h s fuel k).count ≤ 8 := by
  induction fuel generalizing k with
  | zero => exact hk
  | succ fuel ih =>
    unfold findSprites
    dsimp only
    split_ifs
    · exact hk
    · exact ih _ (by simp; omega)
    · exact ih _ hk

/-- A dot keeps the sprite count within eight. -/
theorem executeDot_count (h : p.spr.count ≤ 8) : (p.executeDot cfg c).spr.count ≤ 8 := by
  have hd : ∀ (b : Bool) (f : Ppu → Ppu) (k : Ppu), (∀ k : Ppu, k.spr.count ≤ 8 → (f k).spr.count ≤ 8) →
      k.spr.count ≤ 8 → (doIf b f k).spr.count ≤ 8 := by
    intro b f k hf hk
    cases b
    · exact hk
    · exact hf k hk
  have he : ∀ k : Ppu, k.spr.count ≤ 8 → k.evaluateSprites.spr.count ≤ 8 := by
    intro k _
    unfold Ppu.evaluateSprites
    dsimp only
    split_ifs
    · simp
    · exact findSprites_count _ _ _ _ _ (by simp)
  have hb : ∀ d (k : Ppu), k.spr.count ≤ 8 → (Ppu.bgDot c d k).spr.count ≤ 8 := by
    intro d k hk
    unfold Ppu.bgDot Ppu.bgFetch
    split_ifs <;> exact hk
  unfold Ppu.executeDot
  dsimp only
  refine hd _ _ _ (fun k hk => ?_) ?_
  · unfold Ppu.renderDot
    dsimp only
    exact hd _ _ _ (fun k hk => hk) (hd _ _ _ (fun k hk => hk) (hd _ _ _ (fun k hk => hk) (hd _ _ _ (fun k hk => hk)
      (hd _ _ _ he (hd _ _ _ (fun k hk => hk) (hd _ _ _ (hb _) hk))))))
  · unfold Ppu.frameDot
    dsimp only
    exact hd _ _ _ (fun k hk => hk) (hd _ _ _ (fun k hk => hk) (hd _ _ _ (fun k hk => hk) (hd _ _ _ (fun k hk => hk) h)))

theorem tick_spr : (p.tick cfg c).spr = (p.executeDot cfg c).spr :=
  tick_of_dot cfg c p Ppu.spr (fun _ _ _ _ _ _ => rfl)

/-- A tick lets the decay timer only fall (R474). -/
theorem tick_decayTimer : (p.tick cfg c).decayTimer ≤ p.decayTimer := by
  have k := (Ppu.DotKeeps.executeDot cfg c p).decayTimer
  have ha : ∀ q : Ppu, q.advance.decayTimer = q.decayTimer := fun q => by rw [advance_eq]
  rw [tick_eq, ha]
  split_ifs
  · rw [decayStep_eq]
    simp only [k]
    omega
  · rw [k]

end Sys2Proof.Machine
end

