-- ==== Sys2Proof/Laws/State.lean ====
section
/-!
SUPPORT. One lemma per field of State per named update of it, true by unfolding the update once.
-/

namespace Sys2Proof.Machine

@[simp] theorem mapRegs_cpu (f : Regs → Regs) (s : State) :
    (mapRegs f s).cpu = f s.cpu := rfl
@[simp] theorem mapRegs_intr (f : Regs → Regs) (s : State) : (mapRegs f s).intr = s.intr := rfl
@[simp] theorem mapRegs_dmaReq (f : Regs → Regs) (s : State) : (mapRegs f s).dmaReq = s.dmaReq := rfl
@[simp] theorem mapRegs_clock (f : Regs → Regs) (s : State) : (mapRegs f s).clock = s.clock := rfl
@[simp] theorem mapRegs_totalCycles (f : Regs → Regs) (s : State) : (mapRegs f s).totalCycles = s.totalCycles := rfl
@[simp] theorem mapRegs_refused (f : Regs → Regs) (s : State) : (mapRegs f s).refused = s.refused := rfl
@[simp] theorem mapRegs_ram (f : Regs → Regs) (s : State) : (mapRegs f s).ram = s.ram := rfl
@[simp] theorem mapRegs_ppu (f : Regs → Regs) (s : State) : (mapRegs f s).ppu = s.ppu := rfl
@[simp] theorem mapRegs_cart (f : Regs → Regs) (s : State) : (mapRegs f s).cart = s.cart := rfl
@[simp] theorem mapRegs_pads (f : Regs → Regs) (s : State) : (mapRegs f s).pads = s.pads := rfl
@[simp] theorem mapRegs_audio (f : Regs → Regs) (s : State) : (mapRegs f s).audio = s.audio := rfl
@[simp] theorem mapRegs_cfg (f : Regs → Regs) (s : State) : (mapRegs f s).cfg = s.cfg := rfl

@[simp] theorem setPc_cpu (a : Addr) (s : State) :
    (setPc a s).cpu = { s.cpu with pc := a } := rfl
@[simp] theorem setPc_intr (a : Addr) (s : State) : (setPc a s).intr = s.intr := rfl
@[simp] theorem setPc_dmaReq (a : Addr) (s : State) : (setPc a s).dmaReq = s.dmaReq := rfl
@[simp] theorem setPc_clock (a : Addr) (s : State) : (setPc a s).clock = s.clock := rfl
@[simp] theorem setPc_totalCycles (a : Addr) (s : State) : (setPc a s).totalCycles = s.totalCycles := rfl
@[simp] theorem setPc_refused (a : Addr) (s : State) : (setPc a s).refused = s.refused := rfl
@[simp] theorem setPc_ram (a : Addr) (s : State) : (setPc a s).ram = s.ram := rfl
@[simp] theorem setPc_ppu (a : Addr) (s : State) : (setPc a s).ppu = s.ppu := rfl
@[simp] theorem setPc_cart (a : Addr) (s : State) : (setPc a s).cart = s.cart := rfl
@[simp] theorem setPc_pads (a : Addr) (s : State) : (setPc a s).pads = s.pads := rfl
@[simp] theorem setPc_audio (a : Addr) (s : State) : (setPc a s).audio = s.audio := rfl
@[simp] theorem setPc_cfg (a : Addr) (s : State) : (setPc a s).cfg = s.cfg := rfl

@[simp] theorem setS_cpu (v : Byte) (s : State) :
    (setS v s).cpu = { s.cpu with s := v } := rfl
@[simp] theorem setS_intr (v : Byte) (s : State) : (setS v s).intr = s.intr := rfl
@[simp] theorem setS_dmaReq (v : Byte) (s : State) : (setS v s).dmaReq = s.dmaReq := rfl
@[simp] theorem setS_clock (v : Byte) (s : State) : (setS v s).clock = s.clock := rfl
@[simp] theorem setS_totalCycles (v : Byte) (s : State) : (setS v s).totalCycles = s.totalCycles := rfl
@[simp] theorem setS_refused (v : Byte) (s : State) : (setS v s).refused = s.refused := rfl
@[simp] theorem setS_ram (v : Byte) (s : State) : (setS v s).ram = s.ram := rfl
@[simp] theorem setS_ppu (v : Byte) (s : State) : (setS v s).ppu = s.ppu := rfl
@[simp] theorem setS_cart (v : Byte) (s : State) : (setS v s).cart = s.cart := rfl
@[simp] theorem setS_pads (v : Byte) (s : State) : (setS v s).pads = s.pads := rfl
@[simp] theorem setS_audio (v : Byte) (s : State) : (setS v s).audio = s.audio := rfl
@[simp] theorem setS_cfg (v : Byte) (s : State) : (setS v s).cfg = s.cfg := rfl

@[simp] theorem setP_cpu (p : Flags) (s : State) :
    (setP p s).cpu = { s.cpu with p := p } := rfl
@[simp] theorem setP_intr (p : Flags) (s : State) : (setP p s).intr = s.intr := rfl
@[simp] theorem setP_dmaReq (p : Flags) (s : State) : (setP p s).dmaReq = s.dmaReq := rfl
@[simp] theorem setP_clock (p : Flags) (s : State) : (setP p s).clock = s.clock := rfl
@[simp] theorem setP_totalCycles (p : Flags) (s : State) : (setP p s).totalCycles = s.totalCycles := rfl
@[simp] theorem setP_refused (p : Flags) (s : State) : (setP p s).refused = s.refused := rfl
@[simp] theorem setP_ram (p : Flags) (s : State) : (setP p s).ram = s.ram := rfl
@[simp] theorem setP_ppu (p : Flags) (s : State) : (setP p s).ppu = s.ppu := rfl
@[simp] theorem setP_cart (p : Flags) (s : State) : (setP p s).cart = s.cart := rfl
@[simp] theorem setP_pads (p : Flags) (s : State) : (setP p s).pads = s.pads := rfl
@[simp] theorem setP_audio (p : Flags) (s : State) : (setP p s).audio = s.audio := rfl
@[simp] theorem setP_cfg (p : Flags) (s : State) : (setP p s).cfg = s.cfg := rfl

@[simp] theorem incS_cpu (s : State) :
    (incS s).cpu = { s.cpu with s := s.cpu.s + 1 } := rfl
@[simp] theorem incS_intr (s : State) : (incS s).intr = s.intr := rfl
@[simp] theorem incS_dmaReq (s : State) : (incS s).dmaReq = s.dmaReq := rfl
@[simp] theorem incS_clock (s : State) : (incS s).clock = s.clock := rfl
@[simp] theorem incS_totalCycles (s : State) : (incS s).totalCycles = s.totalCycles := rfl
@[simp] theorem incS_refused (s : State) : (incS s).refused = s.refused := rfl
@[simp] theorem incS_ram (s : State) : (incS s).ram = s.ram := rfl
@[simp] theorem incS_ppu (s : State) : (incS s).ppu = s.ppu := rfl
@[simp] theorem incS_cart (s : State) : (incS s).cart = s.cart := rfl
@[simp] theorem incS_pads (s : State) : (incS s).pads = s.pads := rfl
@[simp] theorem incS_audio (s : State) : (incS s).audio = s.audio := rfl
@[simp] theorem incS_cfg (s : State) : (incS s).cfg = s.cfg := rfl

@[simp] theorem decS_cpu (s : State) :
    (decS s).cpu = { s.cpu with s := s.cpu.s - 1 } := rfl
@[simp] theorem decS_intr (s : State) : (decS s).intr = s.intr := rfl
@[simp] theorem decS_dmaReq (s : State) : (decS s).dmaReq = s.dmaReq := rfl
@[simp] theorem decS_clock (s : State) : (decS s).clock = s.clock := rfl
@[simp] theorem decS_totalCycles (s : State) : (decS s).totalCycles = s.totalCycles := rfl
@[simp] theorem decS_refused (s : State) : (decS s).refused = s.refused := rfl
@[simp] theorem decS_ram (s : State) : (decS s).ram = s.ram := rfl
@[simp] theorem decS_ppu (s : State) : (decS s).ppu = s.ppu := rfl
@[simp] theorem decS_cart (s : State) : (decS s).cart = s.cart := rfl
@[simp] theorem decS_pads (s : State) : (decS s).pads = s.pads := rfl
@[simp] theorem decS_audio (s : State) : (decS s).audio = s.audio := rfl
@[simp] theorem decS_cfg (s : State) : (decS s).cfg = s.cfg := rfl

@[simp] theorem poll_cpu (s : State) : (poll s).cpu = s.cpu := rfl
@[simp] theorem poll_intr (s : State) :
    (poll s).intr = { s.intr with intDue := s.intr.intDue || s.intr.nmiLatched || (!s.cpu.p.i && irqLine s) } := rfl
@[simp] theorem poll_dmaReq (s : State) : (poll s).dmaReq = s.dmaReq := rfl
@[simp] theorem poll_clock (s : State) : (poll s).clock = s.clock := rfl
@[simp] theorem poll_totalCycles (s : State) : (poll s).totalCycles = s.totalCycles := rfl
@[simp] theorem poll_refused (s : State) : (poll s).refused = s.refused := rfl
@[simp] theorem poll_ram (s : State) : (poll s).ram = s.ram := rfl
@[simp] theorem poll_ppu (s : State) : (poll s).ppu = s.ppu := rfl
@[simp] theorem poll_cart (s : State) : (poll s).cart = s.cart := rfl
@[simp] theorem poll_pads (s : State) : (poll s).pads = s.pads := rfl
@[simp] theorem poll_audio (s : State) : (poll s).audio = s.audio := rfl
@[simp] theorem poll_cfg (s : State) : (poll s).cfg = s.cfg := rfl

@[simp] theorem clearLatch_cpu (s : State) : (clearLatch s).cpu = s.cpu := rfl
@[simp] theorem clearLatch_intr (s : State) :
    (clearLatch s).intr = { s.intr with nmiLatched := false } := rfl
@[simp] theorem clearLatch_dmaReq (s : State) : (clearLatch s).dmaReq = s.dmaReq := rfl
@[simp] theorem clearLatch_clock (s : State) : (clearLatch s).clock = s.clock := rfl
@[simp] theorem clearLatch_totalCycles (s : State) : (clearLatch s).totalCycles = s.totalCycles := rfl
@[simp] theorem clearLatch_refused (s : State) : (clearLatch s).refused = s.refused := rfl
@[simp] theorem clearLatch_ram (s : State) : (clearLatch s).ram = s.ram := rfl
@[simp] theorem clearLatch_ppu (s : State) : (clearLatch s).ppu = s.ppu := rfl
@[simp] theorem clearLatch_cart (s : State) : (clearLatch s).cart = s.cart := rfl
@[simp] theorem clearLatch_pads (s : State) : (clearLatch s).pads = s.pads := rfl
@[simp] theorem clearLatch_audio (s : State) : (clearLatch s).audio = s.audio := rfl
@[simp] theorem clearLatch_cfg (s : State) : (clearLatch s).cfg = s.cfg := rfl

@[simp] theorem clearDue_cpu (s : State) : (clearDue s).cpu = s.cpu := rfl
@[simp] theorem clearDue_intr (s : State) :
    (clearDue s).intr = { s.intr with intDue := false } := rfl
@[simp] theorem clearDue_dmaReq (s : State) : (clearDue s).dmaReq = s.dmaReq := rfl
@[simp] theorem clearDue_clock (s : State) : (clearDue s).clock = s.clock := rfl
@[simp] theorem clearDue_totalCycles (s : State) : (clearDue s).totalCycles = s.totalCycles := rfl
@[simp] theorem clearDue_refused (s : State) : (clearDue s).refused = s.refused := rfl
@[simp] theorem clearDue_ram (s : State) : (clearDue s).ram = s.ram := rfl
@[simp] theorem clearDue_ppu (s : State) : (clearDue s).ppu = s.ppu := rfl
@[simp] theorem clearDue_cart (s : State) : (clearDue s).cart = s.cart := rfl
@[simp] theorem clearDue_pads (s : State) : (clearDue s).pads = s.pads := rfl
@[simp] theorem clearDue_audio (s : State) : (clearDue s).audio = s.audio := rfl
@[simp] theorem clearDue_cfg (s : State) : (clearDue s).cfg = s.cfg := rfl

@[simp] theorem updateNmi_cpu (s : State) : (updateNmi s).cpu = s.cpu := rfl
@[simp] theorem updateNmi_intr (s : State) :
    (updateNmi s).intr = { s.intr with
        nmiLine := s.ppu.vblank && s.ppu.nmiEnable
        nmiLatched := s.intr.nmiLatched || (s.ppu.vblank && s.ppu.nmiEnable && !s.intr.nmiLine) } := rfl
@[simp] theorem updateNmi_dmaReq (s : State) : (updateNmi s).dmaReq = s.dmaReq := rfl
@[simp] theorem updateNmi_clock (s : State) : (updateNmi s).clock = s.clock := rfl
@[simp] theorem updateNmi_totalCycles (s : State) : (updateNmi s).totalCycles = s.totalCycles := rfl
@[simp] theorem updateNmi_refused (s : State) : (updateNmi s).refused = s.refused := rfl
@[simp] theorem updateNmi_ram (s : State) : (updateNmi s).ram = s.ram := rfl
@[simp] theorem updateNmi_ppu (s : State) : (updateNmi s).ppu = s.ppu := rfl
@[simp] theorem updateNmi_cart (s : State) : (updateNmi s).cart = s.cart := rfl
@[simp] theorem updateNmi_pads (s : State) : (updateNmi s).pads = s.pads := rfl
@[simp] theorem updateNmi_audio (s : State) : (updateNmi s).audio = s.audio := rfl
@[simp] theorem updateNmi_cfg (s : State) : (updateNmi s).cfg = s.cfg := rfl

@[simp] theorem setScroll_cpu (f : Scroll → Scroll) (s : State) : (setScroll f s).cpu = s.cpu := rfl
@[simp] theorem setScroll_intr (f : Scroll → Scroll) (s : State) : (setScroll f s).intr = s.intr := rfl
@[simp] theorem setScroll_dmaReq (f : Scroll → Scroll) (s : State) : (setScroll f s).dmaReq = s.dmaReq := rfl
@[simp] theorem setScroll_clock (f : Scroll → Scroll) (s : State) : (setScroll f s).clock = s.clock := rfl
@[simp] theorem setScroll_totalCycles (f : Scroll → Scroll) (s : State) : (setScroll f s).totalCycles = s.totalCycles := rfl
@[simp] theorem setScroll_refused (f : Scroll → Scroll) (s : State) : (setScroll f s).refused = s.refused := rfl
@[simp] theorem setScroll_ram (f : Scroll → Scroll) (s : State) : (setScroll f s).ram = s.ram := rfl
@[simp] theorem setScroll_ppu (f : Scroll → Scroll) (s : State) :
    (setScroll f s).ppu = { s.ppu with scroll := f s.ppu.scroll } := rfl
@[simp] theorem setScroll_cart (f : Scroll → Scroll) (s : State) : (setScroll f s).cart = s.cart := rfl
@[simp] theorem setScroll_pads (f : Scroll → Scroll) (s : State) : (setScroll f s).pads = s.pads := rfl
@[simp] theorem setScroll_audio (f : Scroll → Scroll) (s : State) : (setScroll f s).audio = s.audio := rfl
@[simp] theorem setScroll_cfg (f : Scroll → Scroll) (s : State) : (setScroll f s).cfg = s.cfg := rfl

@[simp] theorem maskWrite_cpu (v : Byte) (s : State) : (maskWrite v s).cpu = s.cpu := rfl
@[simp] theorem maskWrite_intr (v : Byte) (s : State) : (maskWrite v s).intr = s.intr := rfl
@[simp] theorem maskWrite_dmaReq (v : Byte) (s : State) : (maskWrite v s).dmaReq = s.dmaReq := rfl
@[simp] theorem maskWrite_clock (v : Byte) (s : State) : (maskWrite v s).clock = s.clock := rfl
@[simp] theorem maskWrite_totalCycles (v : Byte) (s : State) : (maskWrite v s).totalCycles = s.totalCycles := rfl
@[simp] theorem maskWrite_refused (v : Byte) (s : State) : (maskWrite v s).refused = s.refused := rfl
@[simp] theorem maskWrite_ram (v : Byte) (s : State) : (maskWrite v s).ram = s.ram := rfl
@[simp] theorem maskWrite_ppu (v : Byte) (s : State) :
    (maskWrite v s).ppu = { s.ppu with mask := v } := rfl
@[simp] theorem maskWrite_cart (v : Byte) (s : State) : (maskWrite v s).cart = s.cart := rfl
@[simp] theorem maskWrite_pads (v : Byte) (s : State) : (maskWrite v s).pads = s.pads := rfl
@[simp] theorem maskWrite_audio (v : Byte) (s : State) : (maskWrite v s).audio = s.audio := rfl
@[simp] theorem maskWrite_cfg (v : Byte) (s : State) : (maskWrite v s).cfg = s.cfg := rfl

@[simp] theorem oamaddrWrite_cpu (v : Byte) (s : State) : (oamaddrWrite v s).cpu = s.cpu := rfl
@[simp] theorem oamaddrWrite_intr (v : Byte) (s : State) : (oamaddrWrite v s).intr = s.intr := rfl
@[simp] theorem oamaddrWrite_dmaReq (v : Byte) (s : State) : (oamaddrWrite v s).dmaReq = s.dmaReq := rfl
@[simp] theorem oamaddrWrite_clock (v : Byte) (s : State) : (oamaddrWrite v s).clock = s.clock := rfl
@[simp] theorem oamaddrWrite_totalCycles (v : Byte) (s : State) : (oamaddrWrite v s).totalCycles = s.totalCycles := rfl
@[simp] theorem oamaddrWrite_refused (v : Byte) (s : State) : (oamaddrWrite v s).refused = s.refused := rfl
@[simp] theorem oamaddrWrite_ram (v : Byte) (s : State) : (oamaddrWrite v s).ram = s.ram := rfl
@[simp] theorem oamaddrWrite_ppu (v : Byte) (s : State) :
    (oamaddrWrite v s).ppu = { s.ppu with oamaddr := v } := rfl
@[simp] theorem oamaddrWrite_cart (v : Byte) (s : State) : (oamaddrWrite v s).cart = s.cart := rfl
@[simp] theorem oamaddrWrite_pads (v : Byte) (s : State) : (oamaddrWrite v s).pads = s.pads := rfl
@[simp] theorem oamaddrWrite_audio (v : Byte) (s : State) : (oamaddrWrite v s).audio = s.audio := rfl
@[simp] theorem oamaddrWrite_cfg (v : Byte) (s : State) : (oamaddrWrite v s).cfg = s.cfg := rfl

@[simp] theorem refreshLatch_cpu (v : Byte) (s : State) : (refreshLatch v s).cpu = s.cpu := rfl
@[simp] theorem refreshLatch_intr (v : Byte) (s : State) : (refreshLatch v s).intr = s.intr := rfl
@[simp] theorem refreshLatch_dmaReq (v : Byte) (s : State) : (refreshLatch v s).dmaReq = s.dmaReq := rfl
@[simp] theorem refreshLatch_clock (v : Byte) (s : State) : (refreshLatch v s).clock = s.clock := rfl
@[simp] theorem refreshLatch_totalCycles (v : Byte) (s : State) : (refreshLatch v s).totalCycles = s.totalCycles := rfl
@[simp] theorem refreshLatch_refused (v : Byte) (s : State) : (refreshLatch v s).refused = s.refused := rfl
@[simp] theorem refreshLatch_ram (v : Byte) (s : State) : (refreshLatch v s).ram = s.ram := rfl
@[simp] theorem refreshLatch_ppu (v : Byte) (s : State) :
    (refreshLatch v s).ppu = { s.ppu with ioLatch := v, decayTimer := 7777 } := rfl
@[simp] theorem refreshLatch_cart (v : Byte) (s : State) : (refreshLatch v s).cart = s.cart := rfl
@[simp] theorem refreshLatch_pads (v : Byte) (s : State) : (refreshLatch v s).pads = s.pads := rfl
@[simp] theorem refreshLatch_audio (v : Byte) (s : State) : (refreshLatch v s).audio = s.audio := rfl
@[simp] theorem refreshLatch_cfg (v : Byte) (s : State) : (refreshLatch v s).cfg = s.cfg := rfl

@[simp] theorem strobeWrite_cpu (v : Byte) (s : State) : (strobeWrite v s).cpu = s.cpu := rfl
@[simp] theorem strobeWrite_intr (v : Byte) (s : State) : (strobeWrite v s).intr = s.intr := rfl
@[simp] theorem strobeWrite_dmaReq (v : Byte) (s : State) : (strobeWrite v s).dmaReq = s.dmaReq := rfl
@[simp] theorem strobeWrite_clock (v : Byte) (s : State) : (strobeWrite v s).clock = s.clock := rfl
@[simp] theorem strobeWrite_totalCycles (v : Byte) (s : State) : (strobeWrite v s).totalCycles = s.totalCycles := rfl
@[simp] theorem strobeWrite_refused (v : Byte) (s : State) : (strobeWrite v s).refused = s.refused := rfl
@[simp] theorem strobeWrite_ram (v : Byte) (s : State) : (strobeWrite v s).ram = s.ram := rfl
@[simp] theorem strobeWrite_ppu (v : Byte) (s : State) : (strobeWrite v s).ppu = s.ppu := rfl
@[simp] theorem strobeWrite_cart (v : Byte) (s : State) : (strobeWrite v s).cart = s.cart := rfl
@[simp] theorem strobeWrite_audio (v : Byte) (s : State) : (strobeWrite v s).audio = s.audio := rfl
@[simp] theorem strobeWrite_cfg (v : Byte) (s : State) : (strobeWrite v s).cfg = s.cfg := rfl

@[simp] theorem audioWrite_cpu (a : Addr) (v : Byte) (s : State) : (audioWrite a v s).cpu = s.cpu := rfl
@[simp] theorem audioWrite_intr (a : Addr) (v : Byte) (s : State) : (audioWrite a v s).intr = s.intr := rfl
@[simp] theorem audioWrite_dmaReq (a : Addr) (v : Byte) (s : State) : (audioWrite a v s).dmaReq = s.dmaReq := rfl
@[simp] theorem audioWrite_clock (a : Addr) (v : Byte) (s : State) : (audioWrite a v s).clock = s.clock := rfl
@[simp] theorem audioWrite_totalCycles (a : Addr) (v : Byte) (s : State) : (audioWrite a v s).totalCycles = s.totalCycles := rfl
@[simp] theorem audioWrite_refused (a : Addr) (v : Byte) (s : State) : (audioWrite a v s).refused = s.refused := rfl
@[simp] theorem audioWrite_ram (a : Addr) (v : Byte) (s : State) : (audioWrite a v s).ram = s.ram := rfl
@[simp] theorem audioWrite_ppu (a : Addr) (v : Byte) (s : State) : (audioWrite a v s).ppu = s.ppu := rfl
@[simp] theorem audioWrite_cart (a : Addr) (v : Byte) (s : State) : (audioWrite a v s).cart = s.cart := rfl
@[simp] theorem audioWrite_pads (a : Addr) (v : Byte) (s : State) : (audioWrite a v s).pads = s.pads := rfl
@[simp] theorem audioWrite_audio (a : Addr) (v : Byte) (s : State) :
    (audioWrite a v s).audio = s.audio.see (.write a v s.clock) := rfl
@[simp] theorem audioWrite_cfg (a : Addr) (v : Byte) (s : State) : (audioWrite a v s).cfg = s.cfg := rfl

/-- The refusal mark leaves every field but itself. -/
theorem refuse_eq (r : Refusal) (s : State) : refuse r s = { s with refused := some (s.refused.getD r) } := by
  unfold refuse
  split <;> simp_all
  cases s
  simp_all

@[simp] theorem refuse_cpu (r : Refusal) (s : State) : (refuse r s).cpu = s.cpu := by rw [refuse_eq]
@[simp] theorem refuse_intr (r : Refusal) (s : State) : (refuse r s).intr = s.intr := by rw [refuse_eq]
@[simp] theorem refuse_dmaReq (r : Refusal) (s : State) : (refuse r s).dmaReq = s.dmaReq := by rw [refuse_eq]
@[simp] theorem refuse_clock (r : Refusal) (s : State) : (refuse r s).clock = s.clock := by rw [refuse_eq]
@[simp] theorem refuse_totalCycles (r : Refusal) (s : State) : (refuse r s).totalCycles = s.totalCycles := by rw [refuse_eq]
@[simp] theorem refuse_ram (r : Refusal) (s : State) : (refuse r s).ram = s.ram := by rw [refuse_eq]
@[simp] theorem refuse_ppu (r : Refusal) (s : State) : (refuse r s).ppu = s.ppu := by rw [refuse_eq]
@[simp] theorem refuse_cart (r : Refusal) (s : State) : (refuse r s).cart = s.cart := by rw [refuse_eq]
@[simp] theorem refuse_pads (r : Refusal) (s : State) : (refuse r s).pads = s.pads := by rw [refuse_eq]
@[simp] theorem refuse_audio (r : Refusal) (s : State) : (refuse r s).audio = s.audio := by rw [refuse_eq]
@[simp] theorem refuse_cfg (r : Refusal) (s : State) : (refuse r s).cfg = s.cfg := by rw [refuse_eq]

@[simp] theorem refuse_refused (r : Refusal) (s : State) : (refuse r s).refused = some (s.refused.getD r) := by
  rw [refuse_eq]

/-- `finish` answers a next state exactly when no access was refused. -/
theorem finish_eq_next {s t : State} : finish s = .next t ↔ s.refused = none ∧ s = t := by
  unfold finish
  split <;> simp_all

/-- `finish` on a state without the mark. -/
theorem finish_of_none {s : State} (h : s.refused = none) : finish s = .next s := finish_eq_next.2 ⟨h, rfl⟩

end Sys2Proof.Machine
end

