-- ==== Sys2Proof/Laws/Ops.lean ====
section
/-!
SUPPORT. What a bus cycle can do: the fields that a tick, a read and a write keep, the clocks they advance, when they
refuse, and how a calm stretch passes.
-/

namespace Sys2Proof.Machine

/-! ### One PPU tick and the cycle before its routing -/

@[simp] theorem ppuTick_cpu (s : State) : (ppuTick s).cpu = s.cpu := by rfl
@[simp] theorem ppuTick_dmaReq (s : State) : (ppuTick s).dmaReq = s.dmaReq := by rfl
@[simp] theorem ppuTick_clock (s : State) : (ppuTick s).clock = s.clock := by rfl
@[simp] theorem ppuTick_totalCycles (s : State) : (ppuTick s).totalCycles = s.totalCycles := by rfl
@[simp] theorem ppuTick_refused (s : State) : (ppuTick s).refused = s.refused := by rfl
@[simp] theorem ppuTick_ram (s : State) : (ppuTick s).ram = s.ram := by rfl
@[simp] theorem ppuTick_cart (s : State) : (ppuTick s).cart = s.cart := by rfl
@[simp] theorem ppuTick_pads (s : State) : (ppuTick s).pads = s.pads := by rfl
@[simp] theorem ppuTick_audio (s : State) : (ppuTick s).audio = s.audio := by rfl
@[simp] theorem ppuTick_cfg (s : State) : (ppuTick s).cfg = s.cfg := by rfl
@[simp] theorem ppuTick_intDue (s : State) : (ppuTick s).intr.intDue = s.intr.intDue := by rfl
@[simp] theorem ppuTick_ppu (s : State) : (ppuTick s).ppu = s.ppu.tick s.cfg s.cart := by rfl

@[simp] theorem tickCycle_cpu (s : State) : (tickCycle s).cpu = s.cpu := by rfl
@[simp] theorem tickCycle_dmaReq (s : State) : (tickCycle s).dmaReq = s.dmaReq := by rfl
@[simp] theorem tickCycle_clock (s : State) : (tickCycle s).clock = s.clock + 1 := by rfl
@[simp] theorem tickCycle_totalCycles (s : State) : (tickCycle s).totalCycles = s.totalCycles + 1 := by rfl
@[simp] theorem tickCycle_refused (s : State) : (tickCycle s).refused = s.refused := by rfl
@[simp] theorem tickCycle_ram (s : State) : (tickCycle s).ram = s.ram := by rfl
@[simp] theorem tickCycle_cart (s : State) : (tickCycle s).cart = s.cart := by rfl
@[simp] theorem tickCycle_pads (s : State) : (tickCycle s).pads = s.pads := by rfl
@[simp] theorem tickCycle_audio (s : State) : (tickCycle s).audio = s.audio := by rfl
@[simp] theorem tickCycle_cfg (s : State) : (tickCycle s).cfg = s.cfg := by rfl
@[simp] theorem tickCycle_intDue (s : State) : (tickCycle s).intr.intDue = s.intr.intDue := by rfl

/-- The PPU after the three ticks of a cycle, before the decay. -/
def Ppu.tick3 (cfg : Params) (c : Cartridge) (p : Ppu) : Ppu := ((p.tick cfg c).tick cfg c).tick cfg c

theorem tickCycle_ppu (s : State) : (tickCycle s).ppu =
    doIf (s.cfg.decayUnit = .cpuCycle) Ppu.decayStep (s.ppu.tick3 s.cfg s.cart) := by rfl

/-- A field of the PPU that the decay does not touch is after a cycle what the three ticks leave. -/
theorem tickCycle_field {α : Type} (g : Ppu → α) (h : ∀ q : Ppu, ∀ t l, g { q with decayTimer := t, ioLatch := l } = g q)
    (s : State) : g (tickCycle s).ppu = g (s.ppu.tick3 s.cfg s.cart) := by
  rw [tickCycle_ppu]
  unfold doIf
  split_ifs
  · rw [decayStep_eq]
    exact h _ _ _
  · rfl

@[simp] theorem tickCycle_ctrl (s : State) : (tickCycle s).ppu.ctrl = s.ppu.ctrl :=
  (tickCycle_field Ppu.ctrl (fun _ _ _ => rfl) s).trans (by simp [Ppu.tick3])

@[simp] theorem tickCycle_mask (s : State) : (tickCycle s).ppu.mask = s.ppu.mask :=
  (tickCycle_field Ppu.mask (fun _ _ _ => rfl) s).trans (by simp [Ppu.tick3])

@[simp] theorem tickCycle_readBuffer (s : State) : (tickCycle s).ppu.readBuffer = s.ppu.readBuffer :=
  (tickCycle_field Ppu.readBuffer (fun _ _ _ => rfl) s).trans (by simp [Ppu.tick3])

@[simp] theorem tickCycle_oam (s : State) : (tickCycle s).ppu.oam = s.ppu.oam :=
  (tickCycle_field Ppu.oam (fun _ _ _ => rfl) s).trans (by simp [Ppu.tick3])

@[simp] theorem tickCycle_ciram (s : State) : (tickCycle s).ppu.ciram = s.ppu.ciram :=
  (tickCycle_field Ppu.ciram (fun _ _ _ => rfl) s).trans (by simp [Ppu.tick3])

@[simp] theorem tickCycle_palette (s : State) : (tickCycle s).ppu.palette = s.ppu.palette :=
  (tickCycle_field Ppu.palette (fun _ _ _ => rfl) s).trans (by simp [Ppu.tick3])

@[simp] theorem tickCycle_t (s : State) : (tickCycle s).ppu.scroll.t = s.ppu.scroll.t :=
  (tickCycle_field (fun q => q.scroll.t) (fun _ _ _ => rfl) s).trans (by simp [Ppu.tick3])

@[simp] theorem tickCycle_x (s : State) : (tickCycle s).ppu.scroll.x = s.ppu.scroll.x :=
  (tickCycle_field (fun q => q.scroll.x) (fun _ _ _ => rfl) s).trans (by simp [Ppu.tick3])

@[simp] theorem tickCycle_w (s : State) : (tickCycle s).ppu.scroll.w = s.ppu.scroll.w :=
  (tickCycle_field (fun q => q.scroll.w) (fun _ _ _ => rfl) s).trans (by simp [Ppu.tick3])

@[simp] theorem tickCycle_renderingEnabled (s : State) :
    (tickCycle s).ppu.renderingEnabled = s.ppu.renderingEnabled := by
  simp [Ppu.renderingEnabled, Ppu.showBg, Ppu.showSprites]

/-- A pending NMI stays pending through a tick (R410). -/
theorem ppuTick_nmiLatched {s : State} (h : s.intr.nmiLatched = true) : (ppuTick s).intr.nmiLatched = true := by
  simp [ppuTick, updateNmi, h]

/-- A pending NMI stays pending through a cycle's ticks (R410). -/
theorem tickCycle_nmiLatched {s : State} (h : s.intr.nmiLatched = true) : (tickCycle s).intr.nmiLatched = true :=
  ppuTick_nmiLatched (ppuTick_nmiLatched (ppuTick_nmiLatched h))

/-! ### What reads keep -/

/-- What no read cycle and no tick changes. -/
structure ReadKeeps (s t : State) : Prop where
  cpu : t.cpu = s.cpu
  ram : t.ram = s.ram
  cart : t.cart = s.cart
  cfg : t.cfg = s.cfg
  dmaReq : t.dmaReq = s.dmaReq
  intDue : t.intr.intDue = s.intr.intDue
  oam : t.ppu.oam = s.ppu.oam
  ciram : t.ppu.ciram = s.ppu.ciram
  palette : t.ppu.palette = s.ppu.palette
  ctrl : t.ppu.ctrl = s.ppu.ctrl
  mask : t.ppu.mask = s.ppu.mask
  t' : t.ppu.scroll.t = s.ppu.scroll.t
  x : t.ppu.scroll.x = s.ppu.scroll.x
  strobe : t.pads.strobe = s.pads.strobe
  buttons0 : t.pads.buttons0 = s.pads.buttons0
  buttons1 : t.pads.buttons1 = s.pads.buttons1

namespace ReadKeeps

variable {s t u : State}

theorem refl (s : State) : ReadKeeps s s :=
  ⟨rfl, rfl, rfl, rfl, rfl, rfl, rfl, rfl, rfl, rfl, rfl, rfl, rfl, rfl, rfl, rfl⟩

theorem trans (h : ReadKeeps s t) (k : ReadKeeps t u) : ReadKeeps s u := by
  constructor
  exacts [k.cpu.trans h.cpu, k.ram.trans h.ram, k.cart.trans h.cart, k.cfg.trans h.cfg, k.dmaReq.trans h.dmaReq,
    k.intDue.trans h.intDue, k.oam.trans h.oam, k.ciram.trans h.ciram, k.palette.trans h.palette,
    k.ctrl.trans h.ctrl, k.mask.trans h.mask, k.t'.trans h.t', k.x.trans h.x, k.strobe.trans h.strobe,
    k.buttons0.trans h.buttons0, k.buttons1.trans h.buttons1]

theorem tickCycle (s : State) : ReadKeeps s (tickCycle s) := by
  constructor <;> simp

theorem refuse (r : Refusal) (s : State) : ReadKeeps s (refuse r s) := by
  constructor <;> simp

theorem statusRead (s : State) : ReadKeeps s (statusRead s).2 := by
  constructor <;> rfl

theorem ppuRead (r : Nat) (s : State) : ReadKeeps s (ppuRead r s).2 := by
  unfold Machine.ppuRead
  split_ifs
  · exact statusRead s
  · unfold oamdataRead
    split_ifs
    · exact refuse _ s
    all_goals exact refl s
  · unfold dataRead
    dsimp only
    split_ifs
    · exact refuse _ s
    all_goals constructor <;> rfl
  · exact refl s

theorem routeRead (a : Addr) (s : State) : ReadKeeps s (routeRead a s).2 := by
  unfold Machine.routeRead
  split_ifs
  all_goals first | exact ppuRead _ s | (constructor <;> rfl)

/-- Everything a read cycle keeps. -/
theorem rd (a : Addr) (s : State) : ReadKeeps s (rd a s).2 := (tickCycle s).trans (routeRead a _)

theorem renderingEnabled (h : ReadKeeps s t) : t.ppu.renderingEnabled = s.ppu.renderingEnabled := by
  simp [Ppu.renderingEnabled, Ppu.showBg, Ppu.showSprites, h.mask]

theorem memByte (h : ReadKeeps s t) (a : Addr) : memByte t a = memByte s a := by
  simp [Machine.memByte, h.ram, h.cart, h.cfg]

end ReadKeeps

@[simp] theorem rd_cpu (a : Addr) (s : State) : (rd a s).2.cpu = s.cpu := (ReadKeeps.rd a s).cpu
@[simp] theorem rd_ram (a : Addr) (s : State) : (rd a s).2.ram = s.ram := (ReadKeeps.rd a s).ram
@[simp] theorem rd_cart (a : Addr) (s : State) : (rd a s).2.cart = s.cart := (ReadKeeps.rd a s).cart
@[simp] theorem rd_cfg (a : Addr) (s : State) : (rd a s).2.cfg = s.cfg := (ReadKeeps.rd a s).cfg
@[simp] theorem rd_dmaReq (a : Addr) (s : State) : (rd a s).2.dmaReq = s.dmaReq := (ReadKeeps.rd a s).dmaReq
@[simp] theorem rd_intDue (a : Addr) (s : State) : (rd a s).2.intr.intDue = s.intr.intDue := (ReadKeeps.rd a s).intDue
@[simp] theorem rd_oam (a : Addr) (s : State) : (rd a s).2.ppu.oam = s.ppu.oam := (ReadKeeps.rd a s).oam
@[simp] theorem rd_ciram (a : Addr) (s : State) : (rd a s).2.ppu.ciram = s.ppu.ciram := (ReadKeeps.rd a s).ciram
@[simp] theorem rd_palette (a : Addr) (s : State) : (rd a s).2.ppu.palette = s.ppu.palette :=
  (ReadKeeps.rd a s).palette
@[simp] theorem rd_ctrl (a : Addr) (s : State) : (rd a s).2.ppu.ctrl = s.ppu.ctrl := (ReadKeeps.rd a s).ctrl
@[simp] theorem rd_mask (a : Addr) (s : State) : (rd a s).2.ppu.mask = s.ppu.mask := (ReadKeeps.rd a s).mask
@[simp] theorem rd_t (a : Addr) (s : State) : (rd a s).2.ppu.scroll.t = s.ppu.scroll.t := (ReadKeeps.rd a s).t'
@[simp] theorem rd_x (a : Addr) (s : State) : (rd a s).2.ppu.scroll.x = s.ppu.scroll.x := (ReadKeeps.rd a s).x
@[simp] theorem rd_strobe (a : Addr) (s : State) : (rd a s).2.pads.strobe = s.pads.strobe := (ReadKeeps.rd a s).strobe
@[simp] theorem rd_buttons0 (a : Addr) (s : State) : (rd a s).2.pads.buttons0 = s.pads.buttons0 :=
  (ReadKeeps.rd a s).buttons0
@[simp] theorem rd_buttons1 (a : Addr) (s : State) : (rd a s).2.pads.buttons1 = s.pads.buttons1 :=
  (ReadKeeps.rd a s).buttons1
@[simp] theorem rd_renderingEnabled (a : Addr) (s : State) :
    (rd a s).2.ppu.renderingEnabled = s.ppu.renderingEnabled := (ReadKeeps.rd a s).renderingEnabled

@[simp] theorem rd_memByte (a b : Addr) (s : State) : memByte (rd a s).2 b = memByte s b := (ReadKeeps.rd a s).memByte b

theorem ppuRead_clock (r : Nat) (s : State) :
    (ppuRead r s).2.clock = s.clock ∧ (ppuRead r s).2.totalCycles = s.totalCycles := by
  unfold ppuRead statusRead oamdataRead dataRead
  dsimp only
  split_ifs <;> simp

theorem routeRead_clock (a : Addr) (s : State) :
    (routeRead a s).2.clock = s.clock ∧ (routeRead a s).2.totalCycles = s.totalCycles := by
  unfold routeRead
  split_ifs
  all_goals first | exact ppuRead_clock _ s | exact ⟨rfl, rfl⟩

@[simp] theorem rd_clock (a : Addr) (s : State) : (rd a s).2.clock = s.clock + 1 := (routeRead_clock a _).1
@[simp] theorem rd_totalCycles (a : Addr) (s : State) : (rd a s).2.totalCycles = s.totalCycles + 1 :=
  (routeRead_clock a _).2

/-- A read cycle at a memory address returns the byte there. -/
theorem rd_value {a : Addr} {s : State} {v : Byte} (h : memByte s a = some v) : (rd a s).1 = v := by
  have hr : memByte (tickCycle s) a = some v := by rw [(ReadKeeps.tickCycle s).memByte, h]
  unfold rd routeRead
  unfold memByte at hr
  split_ifs at hr ⊢
  all_goals first | omega | simpa using hr

/-! ### What writes keep -/

@[simp] theorem vramWriteCart_prg (c : Cartridge) (a : PAddr) (v : Byte) : (vramWriteCart c a v).prg = c.prg := by
  unfold vramWriteCart writeGraphics
  split_ifs <;> rfl

/-- What no write of a byte changes, besides the memories: the register file, the clocks, the parameters, the poll's
result and the buttons. -/
structure WriteKeeps (s t : State) : Prop where
  cpu : t.cpu = s.cpu
  cfg : t.cfg = s.cfg
  clock : t.clock = s.clock
  totalCycles : t.totalCycles = s.totalCycles
  intDue : t.intr.intDue = s.intr.intDue
  buttons0 : t.pads.buttons0 = s.pads.buttons0
  buttons1 : t.pads.buttons1 = s.pads.buttons1
  images : s.sameImages t

theorem State.sameImages.refl (s : State) : s.sameImages s := ⟨rfl, rfl, rfl, rfl, rfl, rfl, rfl⟩

theorem State.sameImages.trans {s t u : State} (h : s.sameImages t) (k : t.sameImages u) : s.sameImages u :=
  ⟨k.1.trans h.1, k.2.1.trans h.2.1, k.2.2.1.trans h.2.2.1, k.2.2.2.1.trans h.2.2.2.1, k.2.2.2.2.1.trans h.2.2.2.2.1,
    k.2.2.2.2.2.1.trans h.2.2.2.2.2.1, k.2.2.2.2.2.2.trans h.2.2.2.2.2.2⟩

/-- A bank-select write keeps the images and the cartridge's shape (R96). -/
theorem writeBankSelect_keeps (cfg : Params) (n : Nat) (c : Cartridge) (a : Addr) (v : Byte) :
    let d := writeBankSelect cfg n c a v
    d.prg = c.prg ∧ d.chr = c.chr ∧ d.prgBanks = c.prgBanks ∧ d.chrBanks = c.chrBanks ∧ d.mapper = c.mapper ∧
      d.headerMirroring = c.headerMirroring ∧ d.prgRam = c.prgRam ∧ d.chrRam = c.chrRam ∧
      d.lastWriteCycle = some n := by
  unfold writeBankSelect serialWrite serialCommit
  dsimp only
  split
  all_goals try split_ifs
  all_goals exact ⟨rfl, rfl, rfl, rfl, rfl, rfl, rfl, rfl, rfl⟩

theorem vramWriteCart_keeps (c : Cartridge) (a : PAddr) (v : Byte) :
    let d := vramWriteCart c a v
    d.prg = c.prg ∧ d.chr = c.chr ∧ d.prgBanks = c.prgBanks ∧ d.chrBanks = c.chrBanks ∧ d.mapper = c.mapper ∧
      d.headerMirroring = c.headerMirroring ∧ d.prgRam = c.prgRam := by
  unfold vramWriteCart writeGraphics
  dsimp only
  split_ifs <;> exact ⟨rfl, rfl, rfl, rfl, rfl, rfl, rfl⟩

theorem WriteKeeps.refl (s : State) : WriteKeeps s s := ⟨rfl, rfl, rfl, rfl, rfl, rfl, rfl, .refl s⟩

theorem WriteKeeps.of_cart_eq {s t : State} (h1 : t.cpu = s.cpu) (h2 : t.cfg = s.cfg) (h3 : t.clock = s.clock)
    (h4 : t.totalCycles = s.totalCycles) (h5 : t.intr.intDue = s.intr.intDue) (h6 : t.pads.buttons0 = s.pads.buttons0)
    (h7 : t.pads.buttons1 = s.pads.buttons1) (hc : t.cart = s.cart) : WriteKeeps s t :=
  ⟨h1, h2, h3, h4, h5, h6, h7, by rw [State.sameImages, hc, h2]; exact ⟨rfl, rfl, rfl, rfl, rfl, rfl, rfl⟩⟩

theorem WriteKeeps.ppuRegisterWrite (r : Nat) (v : Byte) (s : State) : WriteKeeps s (ppuRegisterWrite r v s) := by
  unfold Machine.ppuRegisterWrite
  split_ifs
  · exact .of_cart_eq rfl rfl rfl rfl rfl rfl rfl rfl
  · exact .of_cart_eq rfl rfl rfl rfl rfl rfl rfl rfl
  · exact .of_cart_eq rfl rfl rfl rfl rfl rfl rfl rfl
  · unfold oamdataWrite
    split_ifs
    · exact .of_cart_eq (by simp) (by simp) (by simp) (by simp) (by simp) (by simp) (by simp) (by simp)
    · exact .of_cart_eq rfl rfl rfl rfl rfl rfl rfl rfl
  · exact .of_cart_eq rfl rfl rfl rfl rfl rfl rfl rfl
  · exact .of_cart_eq rfl rfl rfl rfl rfl rfl rfl rfl
  · unfold dataWrite
    split_ifs
    · exact .of_cart_eq (by simp) (by simp) (by simp) (by simp) (by simp) (by simp) (by simp) (by simp)
    · obtain ⟨h1, h2, h3, h4, h5, h6, _⟩ := vramWriteCart_keeps s.cart s.ppu.portAddr v
      exact ⟨rfl, rfl, rfl, rfl, rfl, rfl, rfl, h1, h2, h3, h4, h5, h6, rfl⟩
  · exact .refl s

theorem WriteKeeps.ppuWrite (r : Nat) (v : Byte) (s : State) : WriteKeeps s (ppuWrite r v s) := by
  unfold Machine.ppuWrite
  dsimp only
  split_ifs
  · exact .of_cart_eq rfl rfl rfl rfl rfl rfl rfl rfl
  · have h := WriteKeeps.ppuRegisterWrite r v (refreshLatch v s)
    exact ⟨h.cpu, h.cfg, h.clock, h.totalCycles, h.intDue, h.buttons0, h.buttons1, h.images⟩

theorem WriteKeeps.strobeWrite (v : Byte) (s : State) : WriteKeeps s (strobeWrite v s) := by
  unfold Machine.strobeWrite
  dsimp only
  split_ifs <;> exact .of_cart_eq rfl rfl rfl rfl rfl rfl rfl rfl

/-- Everything the routing of a write keeps. -/
theorem WriteKeeps.routeWrite (a : Addr) (v : Byte) (s : State) : WriteKeeps s (routeWrite a v s) := by
  unfold Machine.routeWrite
  split_ifs
  · exact .of_cart_eq rfl rfl rfl rfl rfl rfl rfl rfl
  · exact WriteKeeps.ppuWrite _ v s
  · exact .of_cart_eq rfl rfl rfl rfl rfl rfl rfl rfl
  · exact WriteKeeps.strobeWrite v s
  · exact .of_cart_eq rfl rfl rfl rfl rfl rfl rfl rfl
  · exact .refl s
  · exact ⟨rfl, rfl, rfl, rfl, rfl, rfl, rfl, rfl, rfl, rfl, rfl, rfl, rfl, rfl⟩
  · obtain ⟨h1, h2, h3, h4, h5, h6, _⟩ := writeBankSelect_keeps s.cfg s.totalCycles s.cart a v
    exact ⟨rfl, rfl, rfl, rfl, rfl, rfl, rfl, h1, h2, h3, h4, h5, h6, rfl⟩

@[simp] theorem wr_cpu (a : Addr) (v : Byte) (s : State) : (wr a v s).cpu = s.cpu := (WriteKeeps.routeWrite a v _).cpu
@[simp] theorem wr_cfg (a : Addr) (v : Byte) (s : State) : (wr a v s).cfg = s.cfg := (WriteKeeps.routeWrite a v _).cfg
@[simp] theorem wr_clock (a : Addr) (v : Byte) (s : State) : (wr a v s).clock = s.clock + 1 :=
  (WriteKeeps.routeWrite a v _).clock
@[simp] theorem wr_totalCycles (a : Addr) (v : Byte) (s : State) : (wr a v s).totalCycles = s.totalCycles + 1 :=
  (WriteKeeps.routeWrite a v _).totalCycles
@[simp] theorem wr_intDue (a : Addr) (v : Byte) (s : State) : (wr a v s).intr.intDue = s.intr.intDue :=
  (WriteKeeps.routeWrite a v _).intDue
@[simp] theorem wr_buttons0 (a : Addr) (v : Byte) (s : State) : (wr a v s).pads.buttons0 = s.pads.buttons0 :=
  (WriteKeeps.routeWrite a v _).buttons0
@[simp] theorem wr_buttons1 (a : Addr) (v : Byte) (s : State) : (wr a v s).pads.buttons1 = s.pads.buttons1 :=
  (WriteKeeps.routeWrite a v _).buttons1

theorem wr_images (a : Addr) (v : Byte) (s : State) : s.sameImages (wr a v s) :=
  (WriteKeeps.routeWrite a v (tickCycle s)).images

/-- A write cycle to work RAM: the ticks, then the one cell (R92, R101). -/
theorem wr_ram_eq {a : Addr} (h : a.toNat ≤ 0x1FFF) (v : Byte) (s : State) : wr a v s =
    { tickCycle s with ram := writeCell s.ram (a.toNat % 0x800) v } := by
  simp [wr, routeWrite, h]

end Sys2Proof.Machine
end

