-- ==== Sys2Proof/Laws/Refusal.lean ====
section
/-!
SUPPORT. When no access is refused: how a calm stretch passes through the cycles, and what a cycle needs in order not to
refuse (R480, R481).
-/

namespace Sys2Proof.Machine

/-- On lines 240 to 260 a tick advances the position by one dot (R476). -/
theorem tick_linear (cfg : Params) (c : Cartridge) {p : Ppu} (h1 : 240 ≤ p.scanline) (h2 : p.scanline ≤ 260)
    (h3 : p.dot ≤ 340) :
    240 ≤ (p.tick cfg c).scanline ∧ (p.tick cfg c).dot ≤ 340 ∧
      341 * (p.tick cfg c).scanline + (p.tick cfg c).dot = 341 * p.scanline + p.dot + 1 := by
  obtain ⟨hs, hd, _⟩ := tick_position cfg c p
  have hk : p.skipsDot = false := by
    have : p.scanline ≠ 261 := by omega
    simp [Ppu.skipsDot, this]
  rw [hs, hd]
  unfold Ppu.advance
  simp only [hk, Bool.false_eq_true, if_false]
  split_ifs <;> simp <;> omega

/-- A calm stretch on lines 240 to 260, as a property of the PPU. -/
theorem calm_iff (n : Nat) (s : State) : s.calm n = true ↔ s.ppu.renderingEnabled = false ∨
    (240 ≤ s.ppu.scanline ∧ s.ppu.dot ≤ 340 ∧ 341 * s.ppu.scanline + s.ppu.dot + 3 * n < 341 * 261) := by
  simp [State.calm, and_assoc]

/-- Calm is a matter of the mask and the position. -/
theorem calm_congr {s t : State} (n : Nat) (hm : t.ppu.mask = s.ppu.mask) (hs : t.ppu.scanline = s.ppu.scanline)
    (hd : t.ppu.dot = s.ppu.dot) : t.calm n = s.calm n := by
  simp [State.calm, Ppu.renderingEnabled, Ppu.showBg, Ppu.showSprites, hm, hs, hd]

theorem tickCycle_position (s : State) :
    (tickCycle s).ppu.scanline = (s.ppu.tick3 s.cfg s.cart).scanline ∧
      (tickCycle s).ppu.dot = (s.ppu.tick3 s.cfg s.cart).dot :=
  ⟨tickCycle_field Ppu.scanline (fun _ _ _ => rfl) s, tickCycle_field Ppu.dot (fun _ _ _ => rfl) s⟩

/-- One cycle of a calm stretch: the rest of it stays calm, and rendering is not active when the cycle routes. -/
theorem calm_tickCycle {n : Nat} {s : State} (h : s.calm (n + 1) = true) :
    (tickCycle s).calm n = true ∧ (tickCycle s).ppu.renderingActive = false := by
  rw [calm_iff] at h ⊢
  rcases h with h | ⟨h1, h2, h3⟩
  · have h' : (tickCycle s).ppu.renderingEnabled = false := by simpa using h
    exact ⟨.inl h', by simp [Ppu.renderingActive, h']⟩
  · obtain ⟨e1, e2⟩ := tickCycle_position s
    obtain ⟨a1, a2, a3⟩ := tick_linear s.cfg s.cart h1 (by omega) h2
    obtain ⟨b1, b2, b3⟩ := tick_linear s.cfg s.cart a1 (by omega) a2
    obtain ⟨c1, c2, c3⟩ := tick_linear s.cfg s.cart b1 (by omega) b2
    have e3 : s.ppu.tick3 s.cfg s.cart = ((s.ppu.tick s.cfg s.cart).tick s.cfg s.cart).tick s.cfg s.cart := rfl
    rw [e3] at e1 e2
    refine ⟨.inr ?_, ?_⟩
    · rw [e1, e2]
      omega
    · have hl : (tickCycle s).ppu.fetchLine = false := by
        simp only [Ppu.fetchLine, e1, Bool.or_eq_false_iff, decide_eq_false_iff_not]
        omega
      simp [Ppu.renderingActive, hl]

/-! ### The routing refuses only at a data port while rendering is active -/

theorem ppuRead_position (r : Nat) (s : State) : (ppuRead r s).2.ppu.scanline = s.ppu.scanline ∧
    (ppuRead r s).2.ppu.dot = s.ppu.dot := by
  unfold ppuRead statusRead oamdataRead dataRead
  dsimp only
  split_ifs <;> simp [Ppu.stepPort]

theorem routeRead_position (a : Addr) (s : State) : (routeRead a s).2.ppu.scanline = s.ppu.scanline ∧
    (routeRead a s).2.ppu.dot = s.ppu.dot := by
  unfold routeRead
  split_ifs
  all_goals first | exact ppuRead_position _ s | exact ⟨rfl, rfl⟩

theorem routeRead_refused {a : Addr} {s : State} (h : dataPort a = false ∨ s.ppu.renderingActive = false) :
    (routeRead a s).2.refused = s.refused := by
  unfold routeRead
  split_ifs with h1 h2
  · rfl
  · have h8 : a.toNat % 8 < 8 := Nat.mod_lt _ (by decide)
    unfold ppuRead
    split_ifs with r2 r4 r7
    · rfl
    · have : s.ppu.renderingActive = false := h.resolve_left (by simp [dataPort]; omega)
      simp [oamdataRead, this]
    · have : s.ppu.renderingActive = false := h.resolve_left (by simp [dataPort]; omega)
      unfold dataRead
      simp only [this, Bool.false_eq_true, if_false]
      split_ifs <;> rfl
    · rfl
  all_goals rfl

theorem ppuRegisterWrite_refused {r : Nat} {s : State} (v : Byte)
    (h : (r ≠ 4 ∧ r ≠ 7) ∨ s.ppu.renderingActive = false) : (ppuRegisterWrite r v s).refused = s.refused := by
  unfold ppuRegisterWrite
  split_ifs
  · rfl
  · rfl
  · rfl
  · have : s.ppu.renderingActive = false := h.resolve_left (by omega)
    simp [oamdataWrite, this]
  · rfl
  · rfl
  · have : s.ppu.renderingActive = false := h.resolve_left (by omega)
    simp [dataWrite, this]
  · rfl

theorem ppuRegisterWrite_position (r : Nat) (v : Byte) (s : State) :
    (ppuRegisterWrite r v s).ppu.scanline = s.ppu.scanline ∧ (ppuRegisterWrite r v s).ppu.dot = s.ppu.dot := by
  unfold ppuRegisterWrite
  split_ifs
  · exact ⟨rfl, rfl⟩
  · exact ⟨rfl, rfl⟩
  · exact ⟨rfl, rfl⟩
  · unfold oamdataWrite
    split_ifs
    · simp
    · exact ⟨rfl, rfl⟩
  · exact ⟨rfl, rfl⟩
  · exact ⟨rfl, rfl⟩
  · unfold dataWrite
    split_ifs
    · simp
    · unfold vramWritePpu Ppu.stepPort
      dsimp only
      split_ifs <;> exact ⟨rfl, rfl⟩
  · exact ⟨rfl, rfl⟩

theorem ppuRegisterWrite_mask {r : Nat} (h : r ≠ 1) (v : Byte) (s : State) :
    (ppuRegisterWrite r v s).ppu.mask = s.ppu.mask := by
  unfold ppuRegisterWrite
  split_ifs
  · rfl
  · rfl
  · unfold oamdataWrite
    split_ifs
    · simp
    · rfl
  · rfl
  · rfl
  · unfold dataWrite
    split_ifs
    · simp
    · unfold vramWritePpu Ppu.stepPort
      dsimp only
      split_ifs <;> rfl
  · rfl

theorem routeWrite_refused {a : Addr} {s : State} (v : Byte)
    (h : dataPort a = false ∨ s.ppu.renderingActive = false) : (routeWrite a v s).refused = s.refused := by
  unfold routeWrite
  split_ifs with h1 h2
  · rfl
  · have hr : (a.toNat % 8 ≠ 4 ∧ a.toNat % 8 ≠ 7) ∨ (refreshLatch v s).ppu.renderingActive = false := by
      rcases h with h | h
      · left
        simp [dataPort] at h
        omega
      · exact .inr h
    unfold ppuWrite
    dsimp only
    split_ifs
    · rfl
    · rw [ppuRegisterWrite_refused v hr]
      rfl
  · rfl
  · rfl
  all_goals rfl

theorem routeWrite_position (a : Addr) (v : Byte) (s : State) :
    (routeWrite a v s).ppu.scanline = s.ppu.scanline ∧ (routeWrite a v s).ppu.dot = s.ppu.dot := by
  unfold routeWrite
  split_ifs
  · exact ⟨rfl, rfl⟩
  · unfold ppuWrite
    dsimp only
    split_ifs
    · exact ⟨rfl, rfl⟩
    · obtain ⟨h1, h2⟩ := ppuRegisterWrite_position (a.toNat % 8) v (refreshLatch v s)
      exact ⟨h1, h2⟩
  · exact ⟨rfl, rfl⟩
  · exact ⟨rfl, rfl⟩
  all_goals exact ⟨rfl, rfl⟩

/-- Only a write to a mirror of register 1 changes the mask (R467). -/
theorem routeWrite_mask {a : Addr} (h : ¬ (0x2000 ≤ a.toNat ∧ a.toNat ≤ 0x3FFF ∧ a.toNat % 8 = 1)) (v : Byte) (s : State) :
    (routeWrite a v s).ppu.mask = s.ppu.mask := by
  unfold routeWrite
  split_ifs
  · rfl
  · unfold ppuWrite
    dsimp only
    split_ifs
    · rfl
    · rw [ppuRegisterWrite_mask (by omega)]
      rfl
  · rfl
  · rfl
  all_goals rfl

/-! ### What an instruction needs -/

theorem permits_iff (n : Nat) (as : List Addr) (s : State) : s.permits n as = true ↔
    s.refused = none ∧ (s.calm n = true ∨ ∀ a ∈ as, dataPort a = false) := by
  simp [State.permits]

theorem permits_refused {n : Nat} {as : List Addr} {s : State} (h : s.permits n as = true) : s.refused = none :=
  ((permits_iff n as s).1 h).1

/-- Permission is a matter of the mark, the mask and the position. -/
theorem permits_congr {s t : State} (n : Nat) (as : List Addr) (hr : t.refused = s.refused) (hp : t.ppu = s.ppu) :
    t.permits n as = s.permits n as := by
  simp [State.permits, State.calm, hr, hp]

@[simp] theorem permits_mapRegs (n : Nat) (as : List Addr) (f : Regs → Regs) (s : State) :
    (mapRegs f s).permits n as = s.permits n as := permits_congr n as rfl rfl
@[simp] theorem permits_setPc (n : Nat) (as : List Addr) (a : Addr) (s : State) :
    (setPc a s).permits n as = s.permits n as := permits_congr n as rfl rfl
@[simp] theorem permits_setS (n : Nat) (as : List Addr) (v : Byte) (s : State) :
    (setS v s).permits n as = s.permits n as := permits_congr n as rfl rfl
@[simp] theorem permits_setP (n : Nat) (as : List Addr) (p : Flags) (s : State) :
    (setP p s).permits n as = s.permits n as := permits_congr n as rfl rfl
@[simp] theorem permits_incS (n : Nat) (as : List Addr) (s : State) :
    (incS s).permits n as = s.permits n as := permits_congr n as rfl rfl
@[simp] theorem permits_decS (n : Nat) (as : List Addr) (s : State) :
    (decS s).permits n as = s.permits n as := permits_congr n as rfl rfl
@[simp] theorem permits_poll (n : Nat) (as : List Addr) (s : State) :
    (poll s).permits n as = s.permits n as := permits_congr n as rfl rfl
@[simp] theorem permits_clearLatch (n : Nat) (as : List Addr) (s : State) :
    (clearLatch s).permits n as = s.permits n as := permits_congr n as rfl rfl
@[simp] theorem permits_clearDue (n : Nat) (as : List Addr) (s : State) :
    (clearDue s).permits n as = s.permits n as := permits_congr n as rfl rfl

theorem calm_mono {m n : Nat} (h : m ≤ n) {s : State} (hs : s.calm n = true) : s.calm m = true := by
  rw [calm_iff] at hs ⊢
  rcases hs with hs | hs
  · exact .inl hs
  · exact .inr ⟨hs.1, hs.2.1, by omega⟩

theorem permits_mono {m n : Nat} {as bs : List Addr} (h : m ≤ n) (hb : ∀ a ∈ bs, a ∈ as ∨ dataPort a = false) {s : State}
    (hs : s.permits n as = true) : s.permits m bs = true := by
  rw [permits_iff] at hs ⊢
  refine ⟨hs.1, hs.2.imp (calm_mono h) (fun k a ha => ?_)⟩
  exact (hb a ha).elim (k a) id

/-- One read cycle of a permitted stretch. -/
theorem rd_permits {n : Nat} {as : List Addr} {a : Addr} {s : State} (ha : a ∈ as ∨ dataPort a = false)
    (h : s.permits (n + 1) as = true) : (rd a s).2.permits n as = true := by
  rw [permits_iff] at h ⊢
  obtain ⟨h1, h2⟩ := h
  obtain ⟨p1, p2⟩ := routeRead_position a (tickCycle s)
  have hm : (routeRead a (tickCycle s)).2.ppu.mask = (tickCycle s).ppu.mask := (ReadKeeps.routeRead a _).mask
  rcases h2 with h2 | h2
  · obtain ⟨c1, c2⟩ := calm_tickCycle h2
    refine ⟨?_, .inl ?_⟩
    · show (routeRead a (tickCycle s)).2.refused = none
      rw [routeRead_refused (.inr c2), tickCycle_refused, h1]
    · show (routeRead a (tickCycle s)).2.calm n = true
      rw [calm_congr n hm p1 p2]
      exact c1
  · have hp : dataPort a = false := ha.elim (h2 a) id
    refine ⟨?_, .inr h2⟩
    show (routeRead a (tickCycle s)).2.refused = none
    rw [routeRead_refused (.inl hp), tickCycle_refused, h1]

/-- One write cycle of a permitted stretch: it is not refused, and if it went to a data port the rest is calm. -/
theorem wr_permits {n : Nat} {as : List Addr} {a : Addr} {s : State} (v : Byte) (ha : a ∈ as ∨ dataPort a = false)
    (h : s.permits (n + 1) as = true) : (wr a v s).permits n [a] = true := by
  rw [permits_iff] at h ⊢
  obtain ⟨h1, h2⟩ := h
  obtain ⟨p1, p2⟩ := routeWrite_position a v (tickCycle s)
  cases hp : dataPort a
  · refine ⟨?_, .inr (by simpa using hp)⟩
    show (routeWrite a v (tickCycle s)).refused = none
    rw [routeWrite_refused v (.inl hp), tickCycle_refused, h1]
  · have h2 : s.calm (n + 1) = true := by
      rcases h2 with h2 | h2
      · exact h2
      · have := ha.elim (h2 a) id
        simp [hp] at this
    obtain ⟨c1, c2⟩ := calm_tickCycle h2
    refine ⟨?_, .inl ?_⟩
    · show (routeWrite a v (tickCycle s)).refused = none
      rw [routeWrite_refused v (.inr c2), tickCycle_refused, h1]
    · show (routeWrite a v (tickCycle s)).calm n = true
      rw [calm_congr n (routeWrite_mask (by simp [dataPort] at hp; omega) v _) p1 p2]
      exact c1

/-- One write cycle to work RAM. -/
theorem wr_ram_permits {n : Nat} {as : List Addr} {a : Addr} {s : State} (v : Byte) (ha : a.toNat ≤ 0x1FFF)
    (h : s.permits (n + 1) as = true) : (wr a v s).permits n as = true := by
  rw [permits_iff] at h ⊢
  obtain ⟨h1, h2⟩ := h
  rw [wr_ram_eq ha]
  refine ⟨h1, h2.imp (fun k => ?_) id⟩
  exact (calm_tickCycle k).1

end Sys2Proof.Machine
end

