-- ==== Sys2Proof/Laws/Invariant.lean ====
section
/-!
SUPPORT. Every operation of the bus keeps the invariant of Safety.lean.
-/

namespace Sys2Proof.Machine

/-- The invariant of the PPU, as propositions. -/
structure Ppu.Inv (p : Ppu) : Prop where
  oamWf : Cells.wf p.oam = true
  oamBelow : Cells.below p.oam 0x100 = true
  ciramWf : Cells.wf p.ciram = true
  ciramBelow : Cells.below p.ciram 0x800 = true
  paletteWf : Cells.wf p.palette = true
  paletteBelow : Cells.below p.palette 0x20 = true
  scanline : p.scanline ≤ 261
  dot : p.dot ≤ 340
  decayTimer : p.decayTimer ≤ 7777
  count : p.spr.count ≤ 8

theorem Ppu.inv_iff {p : Ppu} : p.inv = true ↔ p.Inv := by
  constructor
  · intro h
    simp only [Ppu.inv, Bool.and_eq_true, decide_eq_true_eq] at h
    obtain ⟨⟨⟨⟨⟨⟨⟨⟨⟨h1, h2⟩, h3⟩, h4⟩, h5⟩, h6⟩, h7⟩, h8⟩, h9⟩, h10⟩ := h
    exact ⟨h1, h2, h3, h4, h5, h6, h7, h8, h9, h10⟩
  · intro h
    simp [Ppu.inv, h.oamWf, h.oamBelow, h.ciramWf, h.ciramBelow, h.paletteWf, h.paletteBelow, h.scanline, h.dot,
      h.decayTimer, h.count]

/-- The invariant of the cartridge, as propositions. -/
structure Cartridge.Inv (c : Cartridge) : Prop where
  prgWf : Cells.wf c.prg = true
  prgBelow : Cells.below c.prg (0x4000 * c.prgBanks) = true
  chrWf : Cells.wf c.chr = true
  chrBelow : Cells.below c.chr (0x2000 * c.chrBanks) = true
  prgRamWf : Cells.wf c.prgRam = true
  prgRamBelow : Cells.below c.prgRam 0x2000 = true
  chrRamWf : Cells.wf c.chrRam = true
  chrRamBelow : Cells.below c.chrRam 0x2000 = true
  shiftCount : c.shiftCount ≤ 4
  prgBanks : 1 ≤ c.prgBanks

theorem Cartridge.inv_iff {c : Cartridge} : c.inv = true ↔ c.Inv := by
  constructor
  · intro h
    simp only [Cartridge.inv, Bool.and_eq_true, decide_eq_true_eq] at h
    obtain ⟨⟨⟨⟨⟨⟨⟨⟨⟨h1, h2⟩, h3⟩, h4⟩, h5⟩, h6⟩, h7⟩, h8⟩, h9⟩, h10⟩ := h
    exact ⟨h1, h2, h3, h4, h5, h6, h7, h8, h9, h10⟩
  · intro h
    simp [Cartridge.inv, h.prgWf, h.prgBelow, h.chrWf, h.chrBelow, h.prgRamWf, h.prgRamBelow, h.chrRamWf,
      h.chrRamBelow, h.shiftCount, h.prgBanks]

/-- The invariant of the machine, as propositions. -/
structure State.Inv (s : State) : Prop where
  ppu : s.ppu.Inv
  cart : s.cart.Inv
  ramWf : Cells.wf s.ram = true
  ramBelow : Cells.below s.ram 0x800 = true
  line : s.intr.nmiLine = (s.ppu.vblank && s.ppu.nmiEnable)
  lastWrite : ∀ k, s.cart.lastWriteCycle = some k → k ≤ s.totalCycles

theorem State.inv_iff {s : State} : s.inv = true ↔ s.Inv := by
  constructor
  · intro h
    simp only [State.inv, Bool.and_eq_true, beq_iff_eq] at h
    obtain ⟨⟨⟨⟨⟨h1, h2⟩, h3⟩, h4⟩, h5⟩, h6⟩ := h
    refine ⟨Ppu.inv_iff.1 h1, Cartridge.inv_iff.1 h2, h3, h4, h5, fun k hk => ?_⟩
    rw [hk] at h6
    simpa using h6
  · intro h
    have h6 : s.cart.lastWriteCycle.all (fun k => decide (k ≤ s.totalCycles)) = true := by
      cases hk : s.cart.lastWriteCycle with
      | none => rfl
      | some k => simpa using h.lastWrite k hk
    simp [State.inv, Ppu.inv_iff.2 h.ppu, Cartridge.inv_iff.2 h.cart, h.ramWf, h.ramBelow, h.line, h6]

/-! ### Ticks -/

theorem Ppu.Inv.decayStep {p : Ppu} (h : p.Inv) : p.decayStep.Inv := by
  rw [decayStep_eq]
  exact ⟨h.oamWf, h.oamBelow, h.ciramWf, h.ciramBelow, h.paletteWf, h.paletteBelow, h.scanline, h.dot,
    le_trans (Nat.sub_le _ _) h.decayTimer, h.count⟩

theorem Ppu.Inv.tick (cfg : Params) (c : Cartridge) {p : Ppu} (h : p.Inv) : (p.tick cfg c).Inv := by
  obtain ⟨hs, hd, _⟩ := tick_position cfg c p
  obtain ⟨as, ad⟩ := advance_inRange p h.scanline h.dot
  have hc : (p.tick cfg c).spr.count ≤ 8 := by
    rw [tick_spr]
    exact executeDot_count cfg c p h.count
  refine ⟨?_, ?_, ?_, ?_, ?_, ?_, hs ▸ as, hd ▸ ad, le_trans (tick_decayTimer cfg c p) h.decayTimer, hc⟩
  all_goals simp [h.oamWf, h.oamBelow, h.ciramWf, h.ciramBelow, h.paletteWf, h.paletteBelow]

theorem State.Inv.ppuTick {s : State} (h : s.Inv) : (ppuTick s).Inv :=
  ⟨h.ppu.tick s.cfg s.cart, h.cart, h.ramWf, h.ramBelow, rfl, h.lastWrite⟩

theorem State.Inv.tickCycle {s : State} (h : s.Inv) : (tickCycle s).Inv := by
  have k := h.ppuTick.ppuTick.ppuTick
  unfold Machine.tickCycle doIf
  dsimp only
  split_ifs
  · refine ⟨k.ppu.decayStep, k.cart, k.ramWf, k.ramBelow, ?_, fun j hj => le_trans (k.lastWrite j hj) (Nat.le_succ _)⟩
    rw [decayStep_eq]
    exact k.line
  · exact ⟨k.ppu, k.cart, k.ramWf, k.ramBelow, k.line, fun j hj => le_trans (k.lastWrite j hj) (Nat.le_succ _)⟩

/-! ### Reads -/

theorem State.Inv.refuse (r : Refusal) {s : State} (h : s.Inv) : (refuse r s).Inv := by
  rw [refuse_eq]
  exact ⟨h.ppu, h.cart, h.ramWf, h.ramBelow, h.line, h.lastWrite⟩

theorem State.Inv.statusRead {s : State} (h : s.Inv) : (statusRead s).2.Inv :=
  ⟨⟨h.ppu.oamWf, h.ppu.oamBelow, h.ppu.ciramWf, h.ppu.ciramBelow, h.ppu.paletteWf, h.ppu.paletteBelow,
    h.ppu.scanline, h.ppu.dot, h.ppu.decayTimer, h.ppu.count⟩, h.cart, h.ramWf, h.ramBelow, rfl, h.lastWrite⟩

theorem State.Inv.of_ppu {s : State} (h : s.Inv) {q : Ppu} (hq : q.Inv) (hv : q.vblank = s.ppu.vblank)
    (hn : q.ctrl = s.ppu.ctrl) : State.Inv { s with ppu := q } :=
  ⟨hq, h.cart, h.ramWf, h.ramBelow, by simpa [Ppu.nmiEnable, hv, hn] using h.line, h.lastWrite⟩

theorem State.Inv.ppuRead (r : Nat) {s : State} (h : s.Inv) : (ppuRead r s).2.Inv := by
  unfold Machine.ppuRead
  split_ifs
  · exact h.statusRead
  · unfold oamdataRead
    split_ifs
    · exact h.refuse _
    all_goals exact h
  · unfold dataRead
    dsimp only
    split_ifs
    · exact h.refuse _
    all_goals
      exact h.of_ppu ⟨h.ppu.oamWf, h.ppu.oamBelow, h.ppu.ciramWf, h.ppu.ciramBelow, h.ppu.paletteWf,
        h.ppu.paletteBelow, h.ppu.scanline, h.ppu.dot, h.ppu.decayTimer, h.ppu.count⟩ rfl rfl
  · exact h

theorem State.Inv.of_rest {s t : State} (h : s.Inv) (h1 : t.ppu = s.ppu) (h2 : t.cart = s.cart) (h3 : t.ram = s.ram)
    (h4 : t.intr.nmiLine = s.intr.nmiLine) (h5 : t.totalCycles = s.totalCycles) : t.Inv :=
  ⟨h1 ▸ h.ppu, h2 ▸ h.cart, h3 ▸ h.ramWf, h3 ▸ h.ramBelow, by rw [h4, h1, h.line], by rw [h2, h5]; exact h.lastWrite⟩

theorem State.Inv.routeRead (a : Addr) {s : State} (h : s.Inv) : (routeRead a s).2.Inv := by
  unfold Machine.routeRead
  split_ifs
  · exact h
  · exact h.ppuRead _
  all_goals exact h.of_rest rfl rfl rfl rfl rfl

theorem State.Inv.rd (a : Addr) {s : State} (h : s.Inv) : (rd a s).2.Inv := h.tickCycle.routeRead a

/-! ### Writes -/

theorem page_le (m : Mirroring) {t : Nat} (h : t < 4) : m.page t ≤ 1 := by
  cases m <;> simp [Mirroring.page] <;> omega

/-- Every nametable address folds onto the 2 KiB of CIRAM (R572). -/
theorem mirrorNametableAddress_lt (c : Cartridge) (a : Nat) : mirrorNametableAddress c a < 0x800 := by
  unfold mirrorNametableAddress
  dsimp only
  have h1 : (a - 0x2000) % 0x1000 < 0x1000 := Nat.mod_lt _ (by decide)
  have h2 := page_le c.mirroring (t := (a - 0x2000) % 0x1000 / 0x400) (by omega)
  have h3 : (a - 0x2000) % 0x1000 % 0x400 < 0x400 := Nat.mod_lt _ (by decide)
  omega

/-- Every palette address selects one of 32 entries (R452). -/
theorem palidx_lt (a : PAddr) : palidx a < 0x20 := by
  unfold palidx
  split_ifs
  · have : (a &&& 0x0F).toNat ≤ 0x0F := by
      rw [BitVec.toNat_and]
      exact Nat.and_le_right
    omega
  · have : (a &&& 0x1F).toNat ≤ 0x1F := by
      rw [BitVec.toNat_and]
      exact Nat.and_le_right
    omega

/-- Graphics RAM is 8 KiB, and every pattern address falls into it (R574). -/
theorem chrAddr_lt {c : Cartridge} (h : c.chrBanks = 0) {a : Nat} (ha : a ≤ 0x1FFF) : chrAddr c a < 0x2000 := by
  unfold chrAddr
  split
  all_goals try omega
  · simp [chrUnits8K, h]
    omega
  · simp only [chrUnits8K, h]
    have : ∀ k : Nat, 0x1000 * (k % (2 * max 0 1)) + a % 0x1000 < 0x2000 := by
      intro k
      have h1 : k % (2 * max 0 1) < 2 := Nat.mod_lt _ (by decide)
      have h2 : a % 0x1000 < 0x1000 := Nat.mod_lt _ (by decide)
      omega
    split_ifs <;> exact this _

theorem Ppu.Inv.vramWrite {p : Ppu} (h : p.Inv) (c : Cartridge) (a : PAddr) (v : Byte) : (vramWritePpu c p a v).Inv := by
  unfold vramWritePpu
  split_ifs
  · exact h
  · exact ⟨h.oamWf, h.oamBelow, wf_writeCell _ _ h.ciramWf,
      below_writeCell _ (mirrorNametableAddress_lt c _) h.ciramBelow, h.paletteWf, h.paletteBelow, h.scanline, h.dot,
      h.decayTimer, h.count⟩
  · exact ⟨h.oamWf, h.oamBelow, h.ciramWf, h.ciramBelow, wf_writeCell _ _ h.paletteWf,
      below_writeCell _ (palidx_lt a) h.paletteBelow, h.scanline, h.dot, h.decayTimer, h.count⟩

theorem Cartridge.Inv.vramWrite {c : Cartridge} (h : c.Inv) (a : PAddr) (v : Byte) : (vramWriteCart c a v).Inv := by
  unfold vramWriteCart writeGraphics
  split_ifs with h1 h2
  · exact ⟨h.prgWf, h.prgBelow, h.chrWf, h.chrBelow, h.prgRamWf, h.prgRamBelow, wf_writeCell _ _ h.chrRamWf,
      below_writeCell _ (chrAddr_lt h2 h1) h.chrRamBelow, h.shiftCount, h.prgBanks⟩
  · exact h
  · exact h

theorem vramWriteCart_last (c : Cartridge) (a : PAddr) (v : Byte) :
    (vramWriteCart c a v).lastWriteCycle = c.lastWriteCycle := by
  unfold vramWriteCart writeGraphics
  split_ifs <;> rfl

theorem vramWritePpu_regs (c : Cartridge) (p : Ppu) (a : PAddr) (v : Byte) :
    (vramWritePpu c p a v).vblank = p.vblank ∧ (vramWritePpu c p a v).ctrl = p.ctrl := by
  unfold vramWritePpu
  split_ifs <;> exact ⟨rfl, rfl⟩

theorem State.Inv.dataWrite (v : Byte) {s : State} (h : s.Inv) : (dataWrite v s).Inv := by
  unfold Machine.dataWrite
  split_ifs
  · exact h.refuse _
  · have k := h.ppu.vramWrite s.cart s.ppu.portAddr v
    obtain ⟨r1, r2⟩ := vramWritePpu_regs s.cart s.ppu s.ppu.portAddr v
    refine ⟨⟨k.oamWf, k.oamBelow, k.ciramWf, k.ciramBelow, k.paletteWf, k.paletteBelow, k.scanline, k.dot,
      k.decayTimer, k.count⟩, h.cart.vramWrite _ v, h.ramWf, h.ramBelow, ?_, ?_⟩
    · show s.intr.nmiLine = ((vramWritePpu s.cart s.ppu s.ppu.portAddr v).vblank &&
        bit (vramWritePpu s.cart s.ppu s.ppu.portAddr v).ctrl 7)
      rw [r1, r2]
      exact h.line
    · show ∀ k, (vramWriteCart s.cart s.ppu.portAddr v).lastWriteCycle = some k → k ≤ s.totalCycles
      rw [vramWriteCart_last]
      exact h.lastWrite

theorem State.Inv.ppuRegisterWrite (r : Nat) (v : Byte) {s : State} (h : s.Inv) : (ppuRegisterWrite r v s).Inv := by
  have p := h.ppu
  unfold Machine.ppuRegisterWrite
  split_ifs
  · exact ⟨⟨p.oamWf, p.oamBelow, p.ciramWf, p.ciramBelow, p.paletteWf, p.paletteBelow, p.scanline, p.dot, p.decayTimer,
      p.count⟩, h.cart, h.ramWf, h.ramBelow, rfl, h.lastWrite⟩
  · exact h.of_ppu ⟨p.oamWf, p.oamBelow, p.ciramWf, p.ciramBelow, p.paletteWf, p.paletteBelow, p.scanline, p.dot,
      p.decayTimer, p.count⟩ rfl rfl
  · exact h.of_ppu ⟨p.oamWf, p.oamBelow, p.ciramWf, p.ciramBelow, p.paletteWf, p.paletteBelow, p.scanline, p.dot,
      p.decayTimer, p.count⟩ rfl rfl
  · unfold oamdataWrite
    split_ifs
    · exact h.refuse _
    · exact h.of_ppu ⟨wf_writeCell _ _ p.oamWf, below_writeCell _ (BitVec.isLt _) p.oamBelow, p.ciramWf, p.ciramBelow,
        p.paletteWf, p.paletteBelow, p.scanline, p.dot, p.decayTimer, p.count⟩ rfl rfl
  · exact h.of_ppu ⟨p.oamWf, p.oamBelow, p.ciramWf, p.ciramBelow, p.paletteWf, p.paletteBelow, p.scanline, p.dot,
      p.decayTimer, p.count⟩ rfl rfl
  · exact h.of_ppu ⟨p.oamWf, p.oamBelow, p.ciramWf, p.ciramBelow, p.paletteWf, p.paletteBelow, p.scanline, p.dot,
      p.decayTimer, p.count⟩ rfl rfl
  · exact h.dataWrite v
  · exact h

theorem State.Inv.ppuWrite (r : Nat) (v : Byte) {s : State} (h : s.Inv) : (ppuWrite r v s).Inv := by
  have p := h.ppu
  have k : (refreshLatch v s).Inv := h.of_ppu ⟨p.oamWf, p.oamBelow, p.ciramWf, p.ciramBelow, p.paletteWf,
    p.paletteBelow, p.scanline, p.dot, le_refl _, p.count⟩ rfl rfl
  unfold Machine.ppuWrite
  dsimp only
  split_ifs
  · exact k
  · exact k.ppuRegisterWrite r v

theorem Cartridge.Inv.writeBankSelect {c : Cartridge} (h : c.Inv) (cfg : Params) (n : Nat) (a : Addr) (v : Byte) :
    (writeBankSelect cfg n c a v).Inv := by
  obtain ⟨h1, h2, h3, h4, _, _, h7, h8, _⟩ := writeBankSelect_keeps cfg n c a v
  have hs : (Machine.writeBankSelect cfg n c a v).shiftCount ≤ 4 := by
    have := h.shiftCount
    unfold Machine.writeBankSelect serialWrite serialCommit
    dsimp only
    split
    all_goals try split_ifs
    all_goals simp
    all_goals omega
  exact ⟨h1 ▸ h.prgWf, by rw [h1, h3]; exact h.prgBelow, h2 ▸ h.chrWf, by rw [h2, h4]; exact h.chrBelow,
    h7 ▸ h.prgRamWf, h7 ▸ h.prgRamBelow, h8 ▸ h.chrRamWf, h8 ▸ h.chrRamBelow, hs, h3 ▸ h.prgBanks⟩

theorem State.Inv.routeWrite (a : Addr) (v : Byte) {s : State} (h : s.Inv) : (routeWrite a v s).Inv := by
  unfold Machine.routeWrite
  split_ifs
  · exact ⟨h.ppu, h.cart, wf_writeCell _ _ h.ramWf, below_writeCell _ (Nat.mod_lt _ (by decide)) h.ramBelow, h.line,
      h.lastWrite⟩
  · exact h.ppuWrite _ v
  · exact h.of_rest rfl rfl rfl rfl rfl
  · exact h.of_rest rfl rfl rfl rfl rfl
  · exact h.of_rest rfl rfl rfl rfl rfl
  · exact h
  · have c := h.cart
    exact ⟨h.ppu, ⟨c.prgWf, c.prgBelow, c.chrWf, c.chrBelow, wf_writeCell _ _ c.prgRamWf,
      below_writeCell _ (by omega) c.prgRamBelow, c.chrRamWf, c.chrRamBelow, c.shiftCount, c.prgBanks⟩, h.ramWf,
      h.ramBelow, h.line, h.lastWrite⟩
  · refine ⟨h.ppu, h.cart.writeBankSelect s.cfg s.totalCycles a v, h.ramWf, h.ramBelow, h.line, ?_⟩
    intro k hk
    have := (writeBankSelect_keeps s.cfg s.totalCycles s.cart a v).2.2.2.2.2.2.2.2
    rw [this] at hk
    exact le_of_eq (Option.some.inj hk).symm

theorem State.Inv.wr (a : Addr) (v : Byte) {s : State} (h : s.Inv) : (wr a v s).Inv := h.tickCycle.routeWrite a v

/-! ### Everything else a meaning is made of -/

theorem State.Inv.mapRegs (f : Regs → Regs) {s : State} (h : s.Inv) : (mapRegs f s).Inv :=
  h.of_rest rfl rfl rfl rfl rfl
theorem State.Inv.setPc (a : Addr) {s : State} (h : s.Inv) : (setPc a s).Inv := h.mapRegs _
theorem State.Inv.setS (v : Byte) {s : State} (h : s.Inv) : (setS v s).Inv := h.mapRegs _
theorem State.Inv.setP (p : Flags) {s : State} (h : s.Inv) : (setP p s).Inv := h.mapRegs _
theorem State.Inv.incS {s : State} (h : s.Inv) : (incS s).Inv := h.setS _
theorem State.Inv.decS {s : State} (h : s.Inv) : (decS s).Inv := h.setS _
theorem State.Inv.poll {s : State} (h : s.Inv) : (poll s).Inv := h.of_rest rfl rfl rfl rfl rfl
theorem State.Inv.clearLatch {s : State} (h : s.Inv) : (clearLatch s).Inv := h.of_rest rfl rfl rfl rfl rfl
theorem State.Inv.clearDue {s : State} (h : s.Inv) : (clearDue s).Inv := h.of_rest rfl rfl rfl rfl rfl
theorem State.Inv.fetch {s : State} (h : s.Inv) : (fetch s).2.Inv := (h.rd _).setPc _
theorem State.Inv.dummyFetch {s : State} (h : s.Inv) : (dummyFetch s).Inv := h.rd _
theorem State.Inv.push (v : Byte) {s : State} (h : s.Inv) : (push v s).Inv := (h.wr _ v).setS _
theorem State.Inv.dummyStack {s : State} (h : s.Inv) : (dummyStack s).Inv := h.rd _
theorem State.Inv.readStack {s : State} (h : s.Inv) : (readStack s).2.Inv := h.rd _
theorem State.Inv.loadVector (vec : Addr) {s : State} (h : s.Inv) : (loadVector vec s).Inv :=
  ((h.rd _).rd _).setPc _
theorem State.Inv.enterInterrupt (b : Bool) {s : State} (h : s.Inv) : (enterInterrupt b s).Inv :=
  (((((h.push _).push _).clearLatch).push _).setP _).loadVector _
theorem State.Inv.interruptDispatch {s : State} (h : s.Inv) : (interruptDispatch s).Inv :=
  h.dummyFetch.dummyFetch.enterInterrupt false
theorem State.Inv.resetDispatch {s : State} (h : s.Inv) : (resetDispatch s).Inv :=
  (h.dummyFetch.dummyFetch.dummyStack.decS.dummyStack.decS.dummyStack.decS.setP _).loadVector _
theorem State.Inv.returnFromInterrupt {s : State} (h : s.Inv) : (returnFromInterrupt s).Inv :=
  (h.dummyStack.incS.readStack.setP _ |>.incS.readStack.incS.poll.readStack).setPc _

theorem State.Inv.dmaCopy (page : Byte) (n : Nat) (i : Byte) {s : State} (h : s.Inv) : (dmaCopy page n i s).Inv := by
  induction n generalizing i s with
  | zero => exact h
  | succ n ih => exact ih (i + 1) ((h.rd _).wr _ _)

theorem State.Inv.oamDma (page : Byte) {s : State} (h : s.Inv) : (oamDma page s).Inv := by
  unfold Machine.oamDma doIf
  dsimp only
  have k : State.Inv { s with dmaReq := none } := h.of_rest rfl rfl rfl rfl rfl
  split_ifs
  · exact k.tickCycle.tickCycle.dmaCopy page 256 0
  · exact k.tickCycle.dmaCopy page 256 0

theorem State.Inv.runDma {s : State} (h : s.Inv) : (runDma s).Inv := by
  unfold Machine.runDma
  split
  · exact h
  · exact (h.oamDma _).poll

end Sys2Proof.Machine
end

