-- ==== Sys2Proof/Laws/Operands.lean ====
section
/-!
SUPPORT. What the operand forms do: they move the pc behind the operand bytes and change nothing a read cycle would not;
the address they give is R142's; and what they need to run without a refusal.
-/

namespace Sys2Proof.Machine

/-! ### The fetch of a byte at the pc -/

@[simp] theorem fetch_cpu (s : State) : (fetch s).2.cpu = { s.cpu with pc := s.cpu.pc + 1 } := by
  simp [fetch]

theorem fetch_fst (s : State) : (fetch s).1 = (rd s.cpu.pc s).1 := rfl

@[simp] theorem fetch_clock (s : State) : (fetch s).2.clock = s.clock + 1 := by simp [fetch]
@[simp] theorem fetch_totalCycles (s : State) : (fetch s).2.totalCycles = s.totalCycles + 1 := by simp [fetch]
@[simp] theorem fetch_memByte (s : State) (a : Addr) : memByte (fetch s).2 a = memByte s a :=
  rd_memByte s.cpu.pc a s
@[simp] theorem setPc_memByte (a b : Addr) (s : State) : memByte (setPc a s) b = memByte s b := rfl
@[simp] theorem poll_memByte (a : Addr) (s : State) : memByte (poll s) a = memByte s a := rfl
@[simp] theorem mapRegs_memByte (f : Regs → Regs) (a : Addr) (s : State) : memByte (mapRegs f s) a = memByte s a := rfl

theorem fetch_value {s : State} {v : Byte} (h : memByte s s.cpu.pc = some v) : (fetch s).1 = v := rd_value h

/-- No address of page zero is a data port. -/
@[simp] theorem dataPort_zext16 (b : Byte) : dataPort (zext16 b) = false := by
  have : (zext16 b).toNat < 256 := by
    simp [zext16]
    omega
  simp [dataPort]
  omega

theorem fetch_permits {n : Nat} {as : List Addr} {s : State} (ha : s.cpu.pc ∈ as ∨ dataPort s.cpu.pc = false)
    (h : s.permits (n + 1) as = true) : (fetch s).2.permits n as = true := by
  simpa [fetch] using rd_permits ha h

/-! ### What the forms keep -/

/-- What no cycle before the access changes: everything a read keeps, and of the register file all but the pc. -/
structure LeadKeeps (s t : State) : Prop where
  a : t.cpu.a = s.cpu.a
  x : t.cpu.x = s.cpu.x
  y : t.cpu.y = s.cpu.y
  s' : t.cpu.s = s.cpu.s
  p : t.cpu.p = s.cpu.p
  intDue : t.intr.intDue = s.intr.intDue
  same : s.sameButReads t

theorem ReadKeeps.same {s t : State} (h : ReadKeeps s t) : s.sameButReads t :=
  ⟨h.ram, h.cart, h.cfg, h.dmaReq, h.oam, h.ciram, h.palette, h.ctrl, h.mask, h.t', h.x, h.strobe, h.buttons0,
    h.buttons1⟩

theorem State.sameButReads.refl (s : State) : s.sameButReads s :=
  ⟨rfl, rfl, rfl, rfl, rfl, rfl, rfl, rfl, rfl, rfl, rfl, rfl, rfl, rfl⟩

theorem State.sameButReads.trans {s t u : State} (h : s.sameButReads t) (k : t.sameButReads u) : s.sameButReads u := by
  obtain ⟨h1, h2, h3, h4, h5, h6, h7, h8, h9, h10, h11, h12, h13, h14⟩ := h
  obtain ⟨k1, k2, k3, k4, k5, k6, k7, k8, k9, k10, k11, k12, k13, k14⟩ := k
  exact ⟨k1.trans h1, k2.trans h2, k3.trans h3, k4.trans h4, k5.trans h5, k6.trans h6, k7.trans h7, k8.trans h8,
    k9.trans h9, k10.trans h10, k11.trans h11, k12.trans h12, k13.trans h13, k14.trans h14⟩

theorem State.sameButReads.memByte {s t : State} (h : s.sameButReads t) (a : Addr) : memByte t a = memByte s a := by
  simp [Machine.memByte, h.1, h.2.1, h.2.2.1]

namespace LeadKeeps

variable {s t u : State}

theorem refl (s : State) : LeadKeeps s s := ⟨rfl, rfl, rfl, rfl, rfl, rfl, .refl s⟩

theorem trans (h : LeadKeeps s t) (k : LeadKeeps t u) : LeadKeeps s u :=
  ⟨k.a.trans h.a, k.x.trans h.x, k.y.trans h.y, k.s'.trans h.s', k.p.trans h.p, k.intDue.trans h.intDue,
    h.same.trans k.same⟩

theorem rd (a : Addr) (s : State) : LeadKeeps s (rd a s).2 :=
  ⟨by simp, by simp, by simp, by simp, by simp, by simp, (ReadKeeps.rd a s).same⟩

theorem fetch (s : State) : LeadKeeps s (fetch s).2 := by
  have h := rd s.cpu.pc s
  exact ⟨h.a, h.x, h.y, h.s', h.p, h.intDue, h.same⟩

theorem partialRead (always : Bool) (hi lo index : Byte) (s : State) : LeadKeeps s (partialRead always hi lo index s).2 := by
  unfold Machine.partialRead doIf
  dsimp only
  split_ifs
  · exact rd _ s
  · exact refl s

theorem eaAbsIndexed (always : Bool) (index : Byte) (s : State) : LeadKeeps s (eaAbsIndexed always index s).2 :=
  ((fetch s).trans (fetch _)).trans (partialRead _ _ _ _ _)

theorem eaIndirectIndexed (always : Bool) (s : State) : LeadKeeps s (eaIndirectIndexed always s).2 :=
  (((fetch s).trans (rd _ _)).trans (rd _ _)).trans (partialRead _ _ _ _ _)

theorem eaAbs (s : State) : LeadKeeps s (eaAbs s).2 := (fetch s).trans (fetch _)

theorem eaIndx (s : State) : LeadKeeps s (eaIndx s).2 := (((fetch s).trans (rd _ _)).trans (rd _ _)).trans (rd _ _)

theorem readTarget (f : Form) (s : State) : LeadKeeps s (f.readTarget s).2 := by
  cases f
  exacts [refl s, fetch s, (fetch s).trans (rd _ _), (fetch s).trans (rd _ _), eaAbs s, eaAbsIndexed _ _ s,
    eaAbsIndexed _ _ s, eaIndx s, eaIndirectIndexed _ s]

theorem writeTarget (f : Form) (s : State) : LeadKeeps s (f.writeTarget s).2 := by
  cases f
  exacts [refl s, fetch s, (fetch s).trans (rd _ _), (fetch s).trans (rd _ _), eaAbs s, eaAbsIndexed _ _ s,
    eaAbsIndexed _ _ s, eaIndx s, eaIndirectIndexed _ s]

end LeadKeeps

theorem partialRead_pc (always : Bool) (hi lo index : Byte) (s : State) :
    (partialRead always hi lo index s).2.cpu = s.cpu := by
  unfold partialRead doIf
  dsimp only
  split_ifs <;> simp

/-- The register file behind the cycles of a form: the pc behind the operand bytes, nothing else (R45). -/
theorem readTarget_cpu {f : Form} (hf : f ≠ .imm) (s : State) :
    (f.readTarget s).2.cpu = { s.cpu with pc := f.pcAfter s } := by
  cases f
  · exact absurd rfl hf
  all_goals simp [Form.readTarget, eaZp, eaZpx, eaZpy, eaZpIndexed, eaAbs, eaAbsxRead, eaAbsyRead, eaAbsIndexed,
    partialRead_pc, eaIndx, eaIndyRead, eaIndirectIndexed, Form.pcAfter, Form.bytes, BitVec.add_assoc]

/-- The register file behind the cycles of a form, write and read-modify-write classes. -/
theorem writeTarget_cpu {f : Form} (hf : f ≠ .imm) (s : State) :
    (f.writeTarget s).2.cpu = { s.cpu with pc := f.pcAfter s } := by
  cases f
  · exact absurd rfl hf
  all_goals simp [Form.writeTarget, eaZp, eaZpx, eaZpy, eaZpIndexed, eaAbs, eaAbsxWrite, eaAbsyWrite, eaAbsIndexed,
    partialRead_pc, eaIndx, eaIndyWrite, eaIndirectIndexed, Form.pcAfter, Form.bytes, BitVec.add_assoc]

/-- The read class: the register file after the operand is read. -/
theorem Form.read_cpu (f : Form) (s : State) : (f.read s).2.cpu = { s.cpu with pc := f.pcAfter s } := by
  cases f
  · simp [Form.read, readImm, Form.pcAfter, Form.bytes]
  exacts [(rd_cpu _ _).trans (readTarget_cpu (f := .zp) (by decide) s),
    (rd_cpu _ _).trans (readTarget_cpu (f := .zpx) (by decide) s),
    (rd_cpu _ _).trans (readTarget_cpu (f := .zpy) (by decide) s),
    (rd_cpu _ _).trans (readTarget_cpu (f := .abs) (by decide) s),
    (rd_cpu _ _).trans (readTarget_cpu (f := .absx) (by decide) s),
    (rd_cpu _ _).trans (readTarget_cpu (f := .absy) (by decide) s),
    (rd_cpu _ _).trans (readTarget_cpu (f := .indx) (by decide) s),
    (rd_cpu _ _).trans (readTarget_cpu (f := .indy) (by decide) s)]

theorem readAt_keeps {s : State} {t : Target} (h : LeadKeeps s t.2) : s.sameButReads (readAt t).2 :=
  h.same.trans (ReadKeeps.rd t.1 (poll t.2)).same

/-- The read class changes nothing but what reads change. -/
theorem Form.read_same (f : Form) (s : State) : s.sameButReads (f.read s).2 := by
  cases f
  · exact (LeadKeeps.fetch (poll s)).same
  exacts [readAt_keeps (LeadKeeps.readTarget .zp s), readAt_keeps (LeadKeeps.readTarget .zpx s),
    readAt_keeps (LeadKeeps.readTarget .zpy s), readAt_keeps (LeadKeeps.readTarget .abs s),
    readAt_keeps (LeadKeeps.readTarget .absx s), readAt_keeps (LeadKeeps.readTarget .absy s),
    readAt_keeps (LeadKeeps.readTarget .indx s), readAt_keeps (LeadKeeps.readTarget .indy s)]

/-! ### The addresses are R142's -/

theorem byteAt_eq {s : State} {a : Addr} {v : Byte} (h : memByte s a = some v) : s.byteAt a = v := by
  simp [State.byteAt, h]

theorem memByte_zext16 (s : State) (b : Byte) : memByte s (zext16 b) = some (s.byteAt (zext16 b)) := by
  have : (zext16 b).toNat ≤ 0x1FFF := by
    simp [zext16]
    omega
  simp [State.byteAt, memByte, this]

theorem memByte_isSome {s : State} {a : Addr} (h : (memByte s a).isSome = true) : memByte s a = some (s.byteAt a) := by
  obtain ⟨v, hv⟩ := Option.isSome_iff_exists.1 h
  rw [hv, byteAt_eq hv]

theorem fetch_byteAt {s : State} (h : (memByte s s.cpu.pc).isSome = true) : (fetch s).1 = s.byteAt s.cpu.pc :=
  fetch_value (memByte_isSome h)

theorem rd_byteAt {s t : State} {a : Addr} (h : (memByte s a).isSome = true) (ht : ∀ b, memByte t b = memByte s b) :
    (rd a t).1 = s.byteAt a :=
  rd_value ((ht a).trans (memByte_isSome h))

/-- Whether the bytes of a form lie in memory. -/
def Form.inMemory (f : Form) (s : State) : Bool :=
  (memByte s s.cpu.pc).isSome && (f.bytes = 1 || (memByte s (s.cpu.pc + 1)).isSome)

theorem fetch2_byteAt {s : State} (h : (memByte s (s.cpu.pc + 1)).isSome = true) :
    (fetch (fetch s).2).1 = s.byteAt (s.cpu.pc + 1) := by
  have e : (fetch s).2.cpu.pc = s.cpu.pc + 1 := by simp
  rw [fetch_fst, e]
  exact rd_byteAt h (fun b => fetch_memByte s b)

theorem partialRead_fst (always : Bool) (hi lo index : Byte) (s : State) :
    (partialRead always hi lo index s).1 = word hi lo + zext16 index := rfl

/-- The cycles of a form compute the address of R142. -/
theorem readTarget_ea {f : Form} {s : State} (h : f.inMemory s = true) :
    (f.readTarget s).1 = f.ea s.byteAt s.cpu := by
  simp only [Form.inMemory, Bool.and_eq_true, Bool.or_eq_true, decide_eq_true_eq] at h
  obtain ⟨h1, h2⟩ := h
  have k1 := fetch_byteAt h1
  cases f
  · rfl
  · simp [Form.readTarget, eaZp, Form.ea, k1]
  · simp [Form.readTarget, eaZpx, eaZpIndexed, Form.ea, k1]
  · simp [Form.readTarget, eaZpy, eaZpIndexed, Form.ea, k1]
  · have k2 := fetch2_byteAt (h2.resolve_left (by decide))
    simp [Form.readTarget, eaAbs, Form.ea, k1, k2]
  · have k2 := fetch2_byteAt (h2.resolve_left (by decide))
    simp [Form.readTarget, eaAbsxRead, eaAbsIndexed, partialRead_fst, Form.ea, k1, k2]
  · have k2 := fetch2_byteAt (h2.resolve_left (by decide))
    simp [Form.readTarget, eaAbsyRead, eaAbsIndexed, partialRead_fst, Form.ea, k1, k2]
  · simp only [Form.readTarget, eaIndx, Form.ea, k1]
    rw [rd_byteAt (s := s) (by rw [memByte_zext16]; rfl) (by simp),
      rd_byteAt (s := s) (by rw [memByte_zext16]; rfl) (by simp)]
  · simp only [Form.readTarget, eaIndyRead, eaIndirectIndexed, partialRead_fst, Form.ea, k1]
    rw [rd_byteAt (s := s) (by rw [memByte_zext16]; rfl) (by simp),
      rd_byteAt (s := s) (by rw [memByte_zext16]; rfl) (by simp)]

/-- The write class gives the same address as the read class. -/
theorem writeTarget_fst (f : Form) (s : State) : (f.writeTarget s).1 = (f.readTarget s).1 := by
  cases f <;> rfl

/-- The operand read at a memory address is the byte there. -/
theorem Form.read_value {f : Form} {s : State} (h : (memByte s (f.readTarget s).1).isSome = true) :
    (f.read s).1 = s.byteAt (f.readTarget s).1 := by
  cases f
  · exact fetch_byteAt h
  exacts [rd_byteAt h (fun b => (LeadKeeps.readTarget .zp s).same.memByte b),
    rd_byteAt h (fun b => (LeadKeeps.readTarget .zpx s).same.memByte b),
    rd_byteAt h (fun b => (LeadKeeps.readTarget .zpy s).same.memByte b),
    rd_byteAt h (fun b => (LeadKeeps.readTarget .abs s).same.memByte b),
    rd_byteAt h (fun b => (LeadKeeps.readTarget .absx s).same.memByte b),
    rd_byteAt h (fun b => (LeadKeeps.readTarget .absy s).same.memByte b),
    rd_byteAt h (fun b => (LeadKeeps.readTarget .indx s).same.memByte b),
    rd_byteAt h (fun b => (LeadKeeps.readTarget .indy s).same.memByte b)]

/-! ### Without a refusal -/

theorem word_toNat (hi lo : Byte) : (word hi lo).toNat = 256 * hi.toNat + lo.toNat := by
  have h := lo.isLt
  simp only [word, BitVec.toNat_append, Nat.shiftLeft_eq]
  rw [Nat.mul_comm, ← Nat.two_pow_add_eq_or_of_lt (i := 8) h]

theorem hi8_toNat (a : Addr) : (hi8 a).toNat = a.toNat / 256 := by
  have := a.isLt
  simp [hi8, Nat.shiftRight_eq_div_pow]
  omega

theorem lo8_toNat (a : Addr) : (lo8 a).toNat = a.toNat % 256 := by
  simp [lo8]

@[simp] theorem hi8_word (hi lo : Byte) : hi8 (word hi lo) = hi := by
  have h1 := hi.isLt
  have h2 := lo.isLt
  apply BitVec.eq_of_toNat_eq
  rw [hi8_toNat, word_toNat]
  omega

@[simp] theorem lo8_word (hi lo : Byte) : lo8 (word hi lo) = lo := by
  have h2 := lo.isLt
  apply BitVec.eq_of_toNat_eq
  rw [lo8_toNat, word_toNat]
  omega

@[simp] theorem word_hi8_lo8 (a : Addr) : word (hi8 a) (lo8 a) = a := by
  apply BitVec.eq_of_toNat_eq
  rw [word_toNat, hi8_toNat, lo8_toNat]
  omega

theorem zext16_toNat (b : Byte) : (zext16 b).toNat = b.toNat := by
  simp [zext16]
  omega

/-- The partial address is the effective address with its page put back (R188). -/
theorem partialAddr_eq (hi lo index : Byte) : partialAddr hi lo index = pageFixed (word hi lo + zext16 index) index := by
  have h : lo8 (word hi lo + zext16 index) = lo + index := by
    apply BitVec.eq_of_toNat_eq
    rw [lo8_toNat, BitVec.toNat_add, BitVec.toNat_add, word_toNat, zext16_toNat]
    omega
  rw [partialAddr, pageFixed, h]
  simp

theorem partialRead_permits {n : Nat} {as : List Addr} (always : Bool) {hi lo index : Byte} {s : State}
    (ha : pageFixed (word hi lo + zext16 index) index ∈ as) (h : s.permits (n + 1) as = true) :
    (partialRead always hi lo index s).2.permits n as = true := by
  unfold partialRead doIf
  dsimp only
  split_ifs
  · rw [partialAddr_eq]
    exact rd_permits (.inl ha) h
  · exact permits_mono (Nat.le_succ n) (fun a ha => .inl ha) h

/-- A permitted form is still permitted its access, and the cycles behind it. -/
theorem readTarget_permits {n : Nat} {f : Form} {s : State} (h : s.permits (f.lead + n + 1) (f.readAccesses s) = true) :
    (f.readTarget s).2.permits (n + 1) [(f.readTarget s).1] = true := by
  have last : ∀ {as : List Addr} {t : State}, (f.readTarget s).1 ∈ as → t.permits (n + 1) as = true →
      t.permits (n + 1) [(f.readTarget s).1] = true :=
    fun {as} {t} ha ht => permits_mono (le_refl _) (fun a h => .inl (by rw [List.mem_singleton.1 h]; exact ha)) ht
  have zero : ∀ {b : Byte} {as : List Addr} {t : State}, t.permits (n + 1) as = true →
      t.permits (n + 1) [zext16 b] = true :=
    fun {b} {as} {t} ht => permits_mono (le_refl _) (fun a h => .inr (by rw [List.mem_singleton.1 h]; simp)) ht
  cases f
  · exact permits_mono (by simp [Form.lead]) (fun a h => .inl h) h
  all_goals simp only [Form.readAccesses, Form.accessed, Form.lead] at h
  · have h : s.permits (n + 1 + 1) [s.cpu.pc] = true := by rwa [show n + 1 + 1 = 1 + n + 1 by omega]
    exact zero (fetch_permits (by simp) h)
  · have h : s.permits (n + 1 + 1 + 1) [s.cpu.pc] = true := by rwa [show n + 1 + 1 + 1 = 2 + n + 1 by omega]
    exact zero (rd_permits (by simp) (fetch_permits (by simp) h))
  · have h : s.permits (n + 1 + 1 + 1) [s.cpu.pc] = true := by rwa [show n + 1 + 1 + 1 = 2 + n + 1 by omega]
    exact zero (rd_permits (by simp) (fetch_permits (by simp) h))
  · rw [show 2 + n + 1 = n + 1 + 1 + 1 by omega] at h
    exact last (by simp) (fetch_permits (by simp) (fetch_permits (by simp) h))
  · rw [show 3 + n + 1 = n + 1 + 1 + 1 + 1 by omega] at h
    exact last (by simp) (partialRead_permits false (by simp [Form.readTarget, eaAbsxRead, eaAbsIndexed, partialRead_fst])
      (fetch_permits (by simp) (fetch_permits (by simp) h)))
  · rw [show 3 + n + 1 = n + 1 + 1 + 1 + 1 by omega] at h
    exact last (by simp) (partialRead_permits false (by simp [Form.readTarget, eaAbsyRead, eaAbsIndexed, partialRead_fst])
      (fetch_permits (by simp) (fetch_permits (by simp) h)))
  · rw [show 4 + n + 1 = n + 1 + 1 + 1 + 1 + 1 by omega] at h
    exact last (by simp) (rd_permits (by simp) (rd_permits (by simp) (rd_permits (by simp) (fetch_permits (by simp) h))))
  · rw [show 4 + n + 1 = n + 1 + 1 + 1 + 1 + 1 by omega] at h
    exact last (by simp) (partialRead_permits false
      (by simp [Form.readTarget, eaIndyRead, eaIndirectIndexed, partialRead_fst])
      (rd_permits (by simp) (rd_permits (by simp) (fetch_permits (by simp) h))))

/-- The same, write and read-modify-write classes. -/
theorem writeTarget_permits {n : Nat} {f : Form} {s : State} (h : s.permits (f.lead + n + 1) (f.writeAccesses s) = true) :
    (f.writeTarget s).2.permits (n + 1) [(f.writeTarget s).1] = true := by
  have last : ∀ {as : List Addr} {t : State}, (f.writeTarget s).1 ∈ as → t.permits (n + 1) as = true →
      t.permits (n + 1) [(f.writeTarget s).1] = true :=
    fun {as} {t} ha ht => permits_mono (le_refl _) (fun a h => .inl (by rw [List.mem_singleton.1 h]; exact ha)) ht
  cases f
  case absx =>
    simp only [Form.writeAccesses, Form.accessed, Form.lead] at h
    rw [show 3 + n + 1 = n + 1 + 1 + 1 + 1 by omega] at h
    exact last (by simp) (partialRead_permits true
      (by simp [Form.writeTarget, eaAbsxWrite, eaAbsIndexed, partialRead_fst])
      (fetch_permits (by simp) (fetch_permits (by simp) h)))
  case absy =>
    simp only [Form.writeAccesses, Form.accessed, Form.lead] at h
    rw [show 3 + n + 1 = n + 1 + 1 + 1 + 1 by omega] at h
    exact last (by simp) (partialRead_permits true
      (by simp [Form.writeTarget, eaAbsyWrite, eaAbsIndexed, partialRead_fst])
      (fetch_permits (by simp) (fetch_permits (by simp) h)))
  case indy =>
    simp only [Form.writeAccesses, Form.accessed, Form.lead] at h
    rw [show 4 + n + 1 = n + 1 + 1 + 1 + 1 + 1 by omega] at h
    exact last (by simp) (partialRead_permits true
      (by simp [Form.writeTarget, eaIndyWrite, eaIndirectIndexed, partialRead_fst])
      (rd_permits (by simp) (rd_permits (by simp) (fetch_permits (by simp) h))))
  all_goals exact readTarget_permits h

/-- A permitted read-class instruction meets no refusal. -/
theorem Form.read_refused {f : Form} {s : State} (h : s.permits (f.lead + 1) (f.readAccesses s) = true) :
    (f.read s).2.refused = none := by
  have k : ∀ g : Form, s.permits (g.lead + 1) (g.readAccesses s) = true → (readAt (g.readTarget s)).2.refused = none :=
    fun g hg => permits_refused (rd_permits (n := 0) (.inl (List.mem_singleton.2 rfl))
      (by rw [permits_poll]; exact readTarget_permits (n := 0) hg))
  cases f
  · exact permits_refused (fetch_permits (n := 0) (s := poll s) (.inl (by simp [Form.readAccesses, Form.accessed])) h)
  exacts [k .zp h, k .zpx h, k .zpy h, k .abs h, k .absx h, k .absy h, k .indx h, k .indy h]

/-- A permitted store meets no refusal. -/
theorem writeAt_refused {f : Form} {s : State} (v : Byte)
    (h : s.permits (f.lead + 1) (f.writeAccesses s) = true) : (writeAt v (f.writeTarget s)).refused = none :=
  permits_refused (wr_permits (n := 0) v (.inl (List.mem_singleton.2 rfl)) (by rw [permits_poll]; exact writeTarget_permits (n := 0) h))

/-- A permitted read-modify-write instruction meets no refusal. -/
theorem modifyAt_refused {f : Form} {s : State} (op : Byte → Flags → Result)
    (h : s.permits (f.lead + 3) (f.writeAccesses s) = true) : (modifyAt op (f.writeTarget s)).refused = none := by
  have k := writeTarget_permits (n := 2) h
  have k1 := rd_permits (.inl (List.mem_singleton.2 rfl)) k
  have k2 := wr_permits (rd (f.writeTarget s).1 (f.writeTarget s).2).1 (.inl (List.mem_singleton.2 rfl)) k1
  have k3 := wr_permits (op (rd (f.writeTarget s).1 (f.writeTarget s).2).1
    (poll (wr (f.writeTarget s).1 (rd (f.writeTarget s).1 (f.writeTarget s).2).1
      (rd (f.writeTarget s).1 (f.writeTarget s).2).2)).cpu.p).1 (.inl (List.mem_singleton.2 rfl)) (by rw [permits_poll]; exact k2)
  exact permits_refused k3

end Sys2Proof.Machine
end

