-- ==== Sys2Proof/Laws/Cycles.lean ====
section
/-!
SUPPORT. How many cycles the forms take, and what the write and read-modify-write classes leave.
-/

namespace Sys2Proof.Machine

/-- Two states `n` cycles apart, by both counters. -/
def Apart (n : Nat) (s t : State) : Prop := t.totalCycles = s.totalCycles + n ∧ t.clock = s.clock + n

theorem Apart.refl (s : State) : Apart 0 s s := ⟨rfl, rfl⟩

theorem Apart.trans {m n : Nat} {s t u : State} (h : Apart m s t) (k : Apart n t u) : Apart (m + n) s u :=
  ⟨by rw [k.1, h.1, Nat.add_assoc], by rw [k.2, h.2, Nat.add_assoc]⟩

theorem Apart.rd (a : Addr) (s : State) : Apart 1 s (rd a s).2 := ⟨rd_totalCycles a s, rd_clock a s⟩

theorem Apart.wr (a : Addr) (v : Byte) (s : State) : Apart 1 s (wr a v s) := ⟨wr_totalCycles a v s, wr_clock a v s⟩

theorem Apart.fetch (s : State) : Apart 1 s (fetch s).2 := ⟨fetch_totalCycles s, fetch_clock s⟩

theorem pageFixed_eq_iff (hi lo index : Byte) :
    pageFixed (word hi lo + zext16 index) index = word hi lo + zext16 index ↔ crosses lo index = false := by
  rw [← partialAddr_eq]
  have h1 := hi.isLt
  have h2 := lo.isLt
  have h3 := index.isLt
  simp only [partialAddr, crosses, decide_eq_false_iff_not, not_lt]
  rw [← BitVec.toNat_inj, BitVec.toNat_add, word_toNat, word_toNat, zext16_toNat, BitVec.toNat_add]
  omega

theorem Apart.poll {n : Nat} {s t : State} (h : Apart n s t) : Apart n s (poll t) := ⟨h.1, h.2⟩

theorem Apart.setP {n : Nat} {s t : State} (p : Flags) (h : Apart n s t) : Apart n s (setP p t) := ⟨h.1, h.2⟩

theorem Apart.of_eq {m n : Nat} {s t : State} (h : Apart m s t) (e : m = n) : Apart n s t := e ▸ h

theorem Apart.partialRead (hi lo index : Byte) (s : State) :
    Apart (pageCycle (word hi lo + zext16 index) index) s (partialRead false hi lo index s).2 := by
  unfold pageCycle
  have h := pageFixed_eq_iff hi lo index
  cases hc : crosses lo index
  · rw [if_pos (h.2 hc)]
    simp [Machine.partialRead, doIf, hc, Apart.refl]
  · rw [if_neg (by rw [h, hc]; simp)]
    simpa [Machine.partialRead, doIf, hc] using Apart.rd _ s

theorem Apart.partialReadAlways (hi lo index : Byte) (s : State) :
    Apart 1 s (Machine.partialRead true hi lo index s).2 :=
  Apart.rd _ s

theorem eaZp_apart (s : State) : Apart 1 s (eaZp s).2 := Apart.fetch s

theorem eaZpIndexed_apart (k : Byte) (s : State) : Apart 2 s (eaZpIndexed k s).2 :=
  (Apart.fetch s).trans (Apart.rd _ _)

theorem eaAbs_apart (s : State) : Apart 2 s (eaAbs s).2 := (Apart.fetch s).trans (Apart.fetch _)

theorem eaAbsIndexed_apart (k : Byte) (s : State) :
    Apart (2 + pageCycle (eaAbsIndexed false k s).1 k) s (eaAbsIndexed false k s).2 :=
  ((Apart.fetch s).trans (Apart.fetch _)).trans (Apart.partialRead _ _ k _)

theorem eaAbsIndexed_apart_always (k : Byte) (s : State) : Apart 3 s (eaAbsIndexed true k s).2 :=
  ((Apart.fetch s).trans (Apart.fetch _)).trans (Apart.partialReadAlways _ _ k _)

theorem eaIndx_apart (s : State) : Apart 4 s (eaIndx s).2 :=
  (((Apart.fetch s).trans (Apart.rd _ _)).trans (Apart.rd _ _)).trans (Apart.rd _ _)

theorem eaIndirectIndexed_apart (s : State) :
    Apart (3 + pageCycle (eaIndirectIndexed false s).1 s.cpu.y) s (eaIndirectIndexed false s).2 :=
  (((Apart.fetch s).trans (Apart.rd _ _)).trans (Apart.rd _ _)).trans (Apart.partialRead _ _ s.cpu.y _)

theorem eaIndirectIndexed_apart_always (s : State) : Apart 4 s (eaIndirectIndexed true s).2 :=
  (((Apart.fetch s).trans (Apart.rd _ _)).trans (Apart.rd _ _)).trans (Apart.partialReadAlways _ _ s.cpu.y _)

theorem readAt_apart {n : Nat} {s : State} {t : Target} (h : Apart n s t.2) : Apart (n + 1) s (readAt t).2 :=
  h.poll.trans (Apart.rd t.1 (poll t.2))

/-- The cycles of the read class behind the opcode fetch (R207). -/
theorem Form.read_apart (f : Form) (s : State) : Apart (f.readCycles s - 1) s (f.read s).2 := by
  cases f
  · exact Apart.fetch (poll s)
  · exact readAt_apart (eaZp_apart s)
  · exact readAt_apart (eaZpIndexed_apart _ s)
  · exact readAt_apart (eaZpIndexed_apart _ s)
  · exact readAt_apart (eaAbs_apart s)
  · exact (readAt_apart (eaAbsIndexed_apart s.cpu.x s)).of_eq (by simp only [Form.readCycles, eaAbsxRead]; omega)
  · exact (readAt_apart (eaAbsIndexed_apart s.cpu.y s)).of_eq (by simp only [Form.readCycles, eaAbsyRead]; omega)
  · exact readAt_apart (eaIndx_apart s)
  · exact (readAt_apart (eaIndirectIndexed_apart s)).of_eq (by simp only [Form.readCycles, eaIndyRead]; omega)

/-- The cycles of the write classes before the access at the effective address. -/
theorem Form.writeTarget_apart {f : Form} (hf : f ≠ .imm) (s : State) :
    Apart (f.writeCycles - 2) s (f.writeTarget s).2 := by
  cases f
  · exact absurd rfl hf
  exacts [eaZp_apart s, eaZpIndexed_apart _ s, eaZpIndexed_apart _ s, eaAbs_apart s, eaAbsIndexed_apart_always _ s,
    eaAbsIndexed_apart_always _ s, eaIndx_apart s, eaIndirectIndexed_apart_always s]

theorem Form.writeCycles_ge (f : Form) : 2 ≤ f.writeCycles := by
  cases f <;> decide

/-- The cycles of the write class behind the opcode fetch (R207). -/
theorem writeAt_apart {f : Form} (hf : f ≠ .imm) (v : Byte) (s : State) :
    Apart (f.writeCycles - 1) s (writeAt v (f.writeTarget s)) :=
  ((Form.writeTarget_apart hf s).poll.trans (Apart.wr _ v _)).of_eq (by have := f.writeCycles_ge; omega)

/-- The cycles of the read-modify-write class behind the opcode fetch (R207). -/
theorem modifyAt_apart {f : Form} (hf : f ≠ .imm) (op : Byte → Flags → Result) (s : State) :
    Apart (f.rmwCycles - 1) s (modifyAt op (f.writeTarget s)) :=
  ((((((Form.writeTarget_apart hf s).trans (Apart.rd _ _)).trans (Apart.wr _ _ _)).poll).trans
    (Apart.wr _ _ _)).setP _).of_eq (by have := f.writeCycles_ge; simp only [Form.rmwCycles]; omega)

/-! ### The write and read-modify-write classes -/

theorem writeAt_cpu {f : Form} (hf : f ≠ .imm) (v : Byte) (s : State) :
    (writeAt v (f.writeTarget s)).cpu = { s.cpu with pc := f.pcAfter s } :=
  (wr_cpu _ _ _).trans (writeTarget_cpu hf s)

/-- The read-modify-write class, cycle by cycle, with the flags that the operation gets (R182, R206). -/
theorem modifyAt_eq {f : Form} (hf : f ≠ .imm) (op : Byte → Flags → Result) (s : State) :
    let a := (f.writeTarget s).1
    let m := rd a (f.writeTarget s).2
    modifyAt op (f.writeTarget s) =
      setP (op m.1 s.cpu.p).2 (wr a (op m.1 s.cpu.p).1 (poll (wr a m.1 m.2))) := by
  dsimp only
  have hp : (poll (wr (f.writeTarget s).1 (rd (f.writeTarget s).1 (f.writeTarget s).2).1
      (rd (f.writeTarget s).1 (f.writeTarget s).2).2)).cpu.p = s.cpu.p := by
    simp [writeTarget_cpu hf]
  unfold modifyAt
  dsimp only
  rw [hp]

theorem modifyAt_cpu {f : Form} (hf : f ≠ .imm) (op : Byte → Flags → Result) (s : State) :
    (modifyAt op (f.writeTarget s)).cpu = { s.cpu with
      pc := f.pcAfter s, p := (op (rd (f.writeTarget s).1 (f.writeTarget s).2).1 s.cpu.p).2 } := by
  rw [modifyAt_eq hf]
  simp [writeTarget_cpu hf]

/-! ### A write and the memories -/

/-- A byte of work RAM or cartridge RAM behind a write cycle to one of them (R92, R101, R573). -/
theorem memByte_wr {a : Addr} (ha : a.toNat < 0x8000) {s : State} (hm : (memByte s a).isSome = true) (b : Addr) (v : Byte) :
    memByte (wr a v s) b = if sameCell a b then some v else memByte s b := by
  by_cases h1 : a.toNat ≤ 0x1FFF
  · rw [wr_ram_eq h1]
    unfold memByte sameCell
    simp only [h1, if_true, readCell_writeCell, tickCycle_cart, tickCycle_cfg]
    split_ifs <;> first | rfl | (simp_all; done) | (simp_all; omega)
  · have h2 : ¬ a.toNat ≤ 0x5FFF := by
      intro h
      simp [memByte, h1, h] at hm
    have h3 : a.toNat ≤ 0x7FFF := by omega
    have e : wr a v s = { tickCycle s with cart := writePrgRam s.cart a v } := by
      have n1 : ¬ a.toNat ≤ 0x3FFF := by omega
      have n2 : ¬ a.toNat = 0x4014 := by omega
      have n3 : ¬ a.toNat = 0x4016 := by omega
      have n4 : ¬ a.toNat ≤ 0x4017 := by omega
      simp [wr, routeWrite, h1, h2, h3, n1, n2, n3, n4]
    have hab : a = b ↔ b.toNat = a.toNat := by
      rw [← BitVec.toNat_inj]
      exact eq_comm
    rw [e]
    unfold memByte sameCell
    simp only [h1, if_false, hab, readPrgRam, writePrgRam, readCell_writeCell, tickCycle_ram, decide_eq_true_eq]
    split_ifs <;> first | rfl | omega

end Sys2Proof.Machine
end

