-- ==== Sys2Proof/Laws/Decode.lean ====
section
/-!
SUPPORT. The opcode map and the list of unassigned bytes are one partition of the 256 bytes, and the table's word of an
instruction gives its opcode byte first.
-/

namespace Sys2Proof

/-- The unassigned bytes decode to themselves: the map of R147 and the list of R150 do not overlap. -/
theorem decodeOpcode_of_unassigned (op : Byte) (h : (Instr.unassigned op).wf = true) :
    decodeOpcode op = .unassigned op := by
  have : ∀ b ∈ unassignedBytes, decodeOpcode b = .unassigned b := by decide +kernel
  exact this op (List.contains_iff_mem.1 h)

/-- The map and the list together cover every byte (R149, R152). -/
theorem decodeOpcode_wf (op : Byte) : (decodeOpcode op).wf = true ∧ (decodeOpcode op).opcode = op := by
  have : ∀ n : Fin 256, (decodeOpcode (BitVec.ofNat 8 n.val)).wf = true ∧
      (decodeOpcode (BitVec.ofNat 8 n.val)).opcode = BitVec.ofNat 8 n.val := by decide +kernel
  simpa using this ⟨op.toNat, op.isLt⟩

end Sys2Proof
end

