-- ==== Sys2Proof/Laws/Stack.lean ====
section
/-!
SUPPORT. The stack: its cells lie in work RAM, what a push and a pull do, and the entry of an interrupt cycle by cycle.
-/

namespace Sys2Proof.Machine

theorem stackCell_toNat (s : State) (k : Byte) : (stackCell s k).toNat = 256 + (s.cpu.s + k).toNat := by
  simp [stackCell, word_toNat]

theorem stackCell_le (s : State) (k : Byte) : (stackCell s k).toNat ≤ 0x1FFF := by
  have := (s.cpu.s + k).isLt
  rw [stackCell_toNat]
  omega

theorem stackAddr_eq (s : State) : stackAddr s = stackCell s 0 := by
  simp [stackAddr, stackCell]

theorem stackAddr_le (s : State) : (stackAddr s).toNat ≤ 0x1FFF := stackAddr_eq s ▸ stackCell_le s 0

@[simp] theorem dataPort_stackAddr (s : State) : dataPort (stackAddr s) = false := by
  have := stackAddr_le s
  simp [dataPort]
  omega

/-- Two stack cells are one exactly when they are the same distance from the pointer. -/
theorem sameCell_stack (s : State) (j k : Byte) : sameCell (stackCell s j) (stackCell s k) = decide (j = k) := by
  have h1 := stackCell_le s j
  have h2 := stackCell_le s k
  have h3 := (s.cpu.s + j).isLt
  have h4 := (s.cpu.s + k).isLt
  have e : ((stackCell s j).toNat % 0x800 = (stackCell s k).toNat % 0x800) ↔ j = k := by
    rw [stackCell_toNat, stackCell_toNat]
    constructor
    · intro h
      have : (s.cpu.s + j).toNat = (s.cpu.s + k).toNat := by omega
      have : s.cpu.s + j = s.cpu.s + k := BitVec.eq_of_toNat_eq this
      simpa using this
    · rintro rfl
      rfl
  simp [sameCell, h1, h2, e]

theorem memByte_stack (s t : State) (k : Byte) : memByte t (stackCell s k) = some (t.byteAt (stackCell s k)) := by
  have := stackCell_le s k
  simp [State.byteAt, memByte, this]

/-! ### A push -/

@[simp] theorem push_cpu (v : Byte) (s : State) : (push v s).cpu = { s.cpu with s := s.cpu.s - 1 } := by
  simp [push]

theorem push_apart (v : Byte) (s : State) : Apart 1 s (push v s) := by
  have h := Apart.wr (stackAddr s) v s
  exact ⟨h.1, h.2⟩

/-- The memories behind a push: the cell at the pointer has the byte (R16, R44). -/
theorem memByte_push (v : Byte) (s : State) (b : Addr) :
    memByte (push v s) b = if sameCell (stackCell s 0) b then some v else memByte s b := by
  have h := stackCell_le s 0
  have hw : memByte (push v s) b = memByte (wr (stackCell s 0) v s) b := by
    rw [← stackAddr_eq]
    rfl
  rw [hw]
  exact memByte_wr (by omega) (by rw [memByte_stack]; rfl) b v

/-- A push changes work RAM and the pointer, and nothing else that a read would not. -/
theorem push_same (v : Byte) (s : State) : s.sameButReads { push v s with ram := s.ram } := by
  have e : push v s = setS (s.cpu.s - 1) { tickCycle s with ram := writeCell s.ram ((stackAddr s).toNat % 0x800) v } := by
    rw [push, wr_ram_eq (stackAddr_le s)]
  have h := (ReadKeeps.tickCycle s).same
  rw [e]
  exact ⟨rfl, h.2⟩

@[simp] theorem push_intDue (v : Byte) (s : State) : (push v s).intr.intDue = s.intr.intDue := by
  simp [push]

theorem push_permits {n : Nat} {as : List Addr} {s : State} (v : Byte) (h : s.permits (n + 1) as = true) :
    (push v s).permits n as = true := by
  simpa [push] using wr_ram_permits v (stackAddr_le s) h

/-- A pending NMI stays pending through a push (R410). -/
theorem push_nmiLatched (v : Byte) {s : State} (h : s.intr.nmiLatched = true) : (push v s).intr.nmiLatched = true := by
  have e : (push v s).intr = (tickCycle s).intr := by
    rw [push, wr_ram_eq (stackAddr_le s)]
    rfl
  rw [e]
  exact tickCycle_nmiLatched h

/-! ### Dummy reads and pulls -/

@[simp] theorem dummyFetch_cpu (s : State) : (dummyFetch s).cpu = s.cpu := rd_cpu _ s
@[simp] theorem dummyStack_cpu (s : State) : (dummyStack s).cpu = s.cpu := rd_cpu _ s
@[simp] theorem readStack_cpu (s : State) : (readStack s).2.cpu = s.cpu := rd_cpu _ s
@[simp] theorem dummyFetch_memByte (s : State) (a : Addr) : memByte (dummyFetch s) a = memByte s a := rd_memByte _ a s
@[simp] theorem dummyStack_memByte (s : State) (a : Addr) : memByte (dummyStack s) a = memByte s a := rd_memByte _ a s
@[simp] theorem readStack_memByte (s : State) (a : Addr) : memByte (readStack s).2 a = memByte s a := rd_memByte _ a s
@[simp] theorem setS_memByte (v : Byte) (s : State) (a : Addr) : memByte (setS v s) a = memByte s a := rfl
@[simp] theorem setP_memByte (p : Flags) (s : State) (a : Addr) : memByte (setP p s) a = memByte s a := rfl
@[simp] theorem incS_memByte (s : State) (a : Addr) : memByte (incS s) a = memByte s a := rfl
@[simp] theorem clearLatch_memByte (s : State) (a : Addr) : memByte (clearLatch s) a = memByte s a := rfl
@[simp] theorem dummyFetch_intDue (s : State) : (dummyFetch s).intr.intDue = s.intr.intDue := rd_intDue _ s
@[simp] theorem dummyStack_intDue (s : State) : (dummyStack s).intr.intDue = s.intr.intDue := rd_intDue _ s
@[simp] theorem readStack_intDue (s : State) : (readStack s).2.intr.intDue = s.intr.intDue := rd_intDue _ s
@[simp] theorem fetch_intDue (s : State) : (fetch s).2.intr.intDue = s.intr.intDue := rd_intDue _ s

theorem dummyFetch_same (s : State) : s.sameButReads (dummyFetch s) := (ReadKeeps.rd _ s).same
theorem dummyStack_same (s : State) : s.sameButReads (dummyStack s) := (ReadKeeps.rd _ s).same
theorem readStack_same (s : State) : s.sameButReads (readStack s).2 := (ReadKeeps.rd _ s).same
theorem fetch_same (s : State) : s.sameButReads (fetch s).2 := (ReadKeeps.rd _ s).same

theorem dummyFetch_apart (s : State) : Apart 1 s (dummyFetch s) := Apart.rd _ s
theorem dummyStack_apart (s : State) : Apart 1 s (dummyStack s) := Apart.rd _ s
theorem readStack_apart (s : State) : Apart 1 s (readStack s).2 := Apart.rd _ s

theorem dummyFetch_permits {n : Nat} {as : List Addr} {s : State} (ha : s.cpu.pc ∈ as ∨ dataPort s.cpu.pc = false)
    (h : s.permits (n + 1) as = true) : (dummyFetch s).permits n as = true := rd_permits ha h

theorem dummyStack_permits {n : Nat} {as : List Addr} {s : State} (h : s.permits (n + 1) as = true) :
    (dummyStack s).permits n as = true := rd_permits (.inr (by simp)) h

theorem readStack_permits {n : Nat} {as : List Addr} {s : State} (h : s.permits (n + 1) as = true) :
    (readStack s).2.permits n as = true := rd_permits (.inr (by simp)) h

/-- The byte a pull reads: that of the cell at the pointer. -/
theorem readStack_value {s : State} {t : State} {k : Byte} (hs : s.cpu.s = t.cpu.s + k)
    (hm : ∀ a, memByte s a = memByte t a) : (readStack s).1 = t.byteAt (stackCell t k) := by
  have e : stackAddr s = stackCell t k := by simp [stackAddr, stackCell, hs]
  have h : (memByte t (stackCell t k)).isSome = true := by rw [memByte_stack]; rfl
  have := rd_byteAt (s := t) (t := s) h hm
  rw [← e] at this ⊢
  exact this

/-! ### The vector and the entry -/

theorem loadVector_apart (vec : Addr) (s : State) : Apart 2 s (loadVector vec s) :=
  (Apart.rd vec s).trans (Apart.rd (vec + 1) _)

theorem loadVector_same (vec : Addr) (s : State) : s.sameButReads (loadVector vec s) :=
  (ReadKeeps.rd vec s).same.trans (ReadKeeps.rd (vec + 1) _).same

@[simp] theorem loadVector_intDue (vec : Addr) (s : State) : (loadVector vec s).intr.intDue = s.intr.intDue := by
  simp [loadVector]

/-- The pc behind the load of a vector that lies in memory. -/
theorem loadVector_cpu {vec : Addr} {s : State} (h1 : (memByte s vec).isSome = true)
    (h2 : (memByte s (vec + 1)).isSome = true) :
    (loadVector vec s).cpu = { s.cpu with pc := word (s.byteAt (vec + 1)) (s.byteAt vec) } := by
  have e1 := rd_byteAt (t := s) h1 (fun b => rfl)
  have e2 := rd_byteAt (t := (rd vec s).2) h2 (fun b => rd_memByte vec b s)
  show { (rd (vec + 1) (rd vec s).2).2.cpu with pc := word (rd (vec + 1) (rd vec s).2).1 (rd vec s).1 } = _
  rw [e1, e2]
  simp

theorem loadVector_permits {n : Nat} {as : List Addr} {vec : Addr} {s : State} (h1 : dataPort vec = false)
    (h2 : dataPort (vec + 1) = false) (h : s.permits (n + 2) as = true) : (loadVector vec s).permits n as = true := by
  simpa [loadVector] using rd_permits (n := n) (a := vec + 1) (.inr h2) (rd_permits (n := n + 1) (a := vec) (.inr h1) h)

end Sys2Proof.Machine
end

