-- ==== Sys2Proof/Laws/Exec.lean ====
section
/-!
SUPPORT. The ends of the meanings: every arm ends its cycles with `finish`; a poll changes no byte that is read.
-/

namespace Sys2Proof.Machine

theorem finish_next {s t : State} (h : finish s = .next t) : s.refused = none ∧ t = s := by
  unfold finish at h
  split at h
  · injection h with h
    exact ⟨‹_›, h.symm⟩
  · cases h

/-- Every instruction runs its cycles and then answers a next state, or the refusal that they marked (R17). -/
theorem exec_finish (i : Instr) (s : State) : ∃ u, exec i s = finish u := by
  cases i <;> exact ⟨_, rfl⟩

theorem exec_refused {i : Instr} {s t : State} (h : exec i s = .next t) : t.refused = none := by
  obtain ⟨u, hu⟩ := exec_finish i s
  obtain ⟨h1, rfl⟩ := finish_next (hu ▸ h)
  exact h1

/-- The byte a read returns does not depend on the interrupt state (R100). -/
theorem routeRead_intr (a : Addr) (s : State) (k : Interrupts) :
    (routeRead a { s with intr := k }).1 = (routeRead a s).1 := by
  unfold routeRead ppuRead statusRead oamdataRead dataRead
  dsimp only
  split_ifs <;> rfl

theorem rd_poll (a : Addr) (s : State) : (rd a (poll s)).1 = (rd a s).1 :=
  routeRead_intr a (tickCycle s) (tickCycle (poll s)).intr

theorem fetch_poll (s : State) : (fetch (poll s)).1 = (fetch s).1 := rd_poll _ s

end Sys2Proof.Machine
end

