-- ==== Sys2Proof/Laws/Every.lean ====
section
/-!
SUPPORT. Whatever every part of a cycle keeps, every instruction and every step keeps: one case analysis over the
instructions for all relations between the state before and the state after.
-/

namespace Sys2Proof.Machine

/-- A relation that the parts of every instruction keep. -/
structure Kept (R : State → State → Prop) : Prop where
  refl : ∀ s, R s s
  trans : ∀ {s t u}, R s t → R t u → R s u
  rd : ∀ a s, R s (rd a s).2
  wr : ∀ a v s, R s (wr a v s)
  regs : ∀ f s, R s (mapRegs f s)
  poll : ∀ s, R s (poll s)
  clearLatch : ∀ s, R s (clearLatch s)
  clearDue : ∀ s, R s (clearDue s)
  refuse : ∀ r s, R s (refuse r s)

namespace Kept

variable {R : State → State → Prop} (k : Kept R)
include k

theorem setPc (a : Addr) (s : State) : R s (setPc a s) := k.regs _ s
theorem setS (v : Byte) (s : State) : R s (setS v s) := k.regs _ s
theorem setP (p : Flags) (s : State) : R s (setP p s) := k.regs _ s
theorem incS (s : State) : R s (incS s) := k.setS _ s

theorem fetch (s : State) : R s (fetch s).2 := k.trans (k.rd _ _) (k.setPc _ _)
theorem dummyFetch (s : State) : R s (dummyFetch s) := k.rd _ _
theorem dummyStack (s : State) : R s (dummyStack s) := k.rd _ _
theorem readStack (s : State) : R s (readStack s).2 := k.rd _ _
theorem push (v : Byte) (s : State) : R s (push v s) := k.trans (k.wr _ _ _) (k.setS _ _)

theorem partialRead (always : Bool) (hi lo index : Byte) (s : State) : R s (partialRead always hi lo index s).2 := by
  unfold Machine.partialRead doIf
  dsimp only
  split_ifs
  · exact k.rd _ _
  · exact k.refl _

theorem eaZp (s : State) : R s (eaZp s).2 := k.fetch s
theorem eaZpIndexed (x : Byte) (s : State) : R s (eaZpIndexed x s).2 := k.trans (k.fetch s) (k.rd _ _)
theorem eaAbs (s : State) : R s (eaAbs s).2 := k.trans (k.fetch s) (k.fetch _)
theorem eaAbsIndexed (b : Bool) (x : Byte) (s : State) : R s (eaAbsIndexed b x s).2 :=
  k.trans (k.trans (k.fetch s) (k.fetch _)) (k.partialRead _ _ _ _ _)
theorem eaIndx (s : State) : R s (eaIndx s).2 :=
  k.trans (k.trans (k.trans (k.fetch s) (k.rd _ _)) (k.rd _ _)) (k.rd _ _)
theorem eaIndirectIndexed (b : Bool) (s : State) : R s (eaIndirectIndexed b s).2 :=
  k.trans (k.trans (k.trans (k.fetch s) (k.rd _ _)) (k.rd _ _)) (k.partialRead _ _ _ _ _)

theorem eaZpx (s : State) : R s (eaZpx s).2 := k.eaZpIndexed _ s
theorem eaZpy (s : State) : R s (eaZpy s).2 := k.eaZpIndexed _ s
theorem eaAbsxRead (s : State) : R s (eaAbsxRead s).2 := k.eaAbsIndexed _ _ s
theorem eaAbsyRead (s : State) : R s (eaAbsyRead s).2 := k.eaAbsIndexed _ _ s
theorem eaAbsxWrite (s : State) : R s (eaAbsxWrite s).2 := k.eaAbsIndexed _ _ s
theorem eaAbsyWrite (s : State) : R s (eaAbsyWrite s).2 := k.eaAbsIndexed _ _ s
theorem eaIndyRead (s : State) : R s (eaIndyRead s).2 := k.eaIndirectIndexed _ s
theorem eaIndyWrite (s : State) : R s (eaIndyWrite s).2 := k.eaIndirectIndexed _ s

theorem readImm (s : State) : R s (readImm s).2 := k.trans (k.poll s) (k.fetch _)
theorem readAt {s : State} {t : Target} (h : R s t.2) : R s (readAt t).2 := k.trans h (k.trans (k.poll _) (k.rd _ _))
theorem readOp (op : Byte → Regs → Regs) {s : State} {m : Got} (h : R s m.2) : R s (readOp op m) :=
  k.trans h (k.regs _ _)
theorem writeAt (v : Byte) {s : State} {t : Target} (h : R s t.2) : R s (writeAt v t) :=
  k.trans h (k.trans (k.poll _) (k.wr _ _ _))
theorem modifyAt (f : Byte → Flags → Result) {s : State} {t : Target} (h : R s t.2) : R s (modifyAt f t) :=
  k.trans (k.trans (k.trans (k.trans (k.trans h (k.rd _ _)) (k.wr _ _ _)) (k.poll _)) (k.wr _ _ _)) (k.setP _ _)
theorem impliedOp (op : Regs → Regs) (s : State) : R s (impliedOp op s) :=
  k.trans (k.trans (k.poll s) (k.dummyFetch _)) (k.regs _ _)

theorem branch (b : Bool) (s : State) : R s (branch b s) := by
  have h := k.trans (k.poll s) (k.fetch _)
  unfold Machine.branch
  dsimp only
  split_ifs
  · exact k.trans (k.trans h (k.dummyFetch _)) (k.setPc _ _)
  · exact k.trans (k.trans (k.trans (k.trans h (k.dummyFetch _)) (k.poll _)) (k.rd _ _)) (k.setPc _ _)
  · exact h

theorem loadVector (v : Addr) (s : State) : R s (loadVector v s) := k.trans (k.trans (k.rd _ s) (k.rd _ _)) (k.setPc _ _)

theorem enterInterrupt (b : Bool) (s : State) : R s (enterInterrupt b s) := by
  unfold Machine.enterInterrupt
  dsimp only
  refine k.trans ?_ (k.loadVector _ _)
  exact k.trans (k.trans (k.trans (k.trans (k.push _ s) (k.push _ _)) (k.clearLatch _)) (k.push _ _)) (k.setP _ _)

theorem interruptDispatch (s : State) : R s (interruptDispatch s) :=
  k.trans (k.trans (k.dummyFetch s) (k.dummyFetch _)) (k.enterInterrupt _ _)

theorem returnFromInterrupt (s : State) : R s (returnFromInterrupt s) := by
  unfold Machine.returnFromInterrupt
  dsimp only
  refine k.trans ?_ (k.setPc _ _)
  refine k.trans ?_ (k.readStack _)
  refine k.trans ?_ (k.poll _)
  refine k.trans ?_ (k.incS _)
  refine k.trans ?_ (k.readStack _)
  refine k.trans ?_ (k.incS _)
  refine k.trans ?_ (k.setP _ _)
  refine k.trans ?_ (k.readStack _)
  exact k.trans (k.dummyStack s) (k.incS _)

theorem pullByte (s : State) : R s (pullByte s).2 :=
  k.trans (k.trans (k.trans (k.trans (k.dummyFetch s) (k.dummyStack _)) (k.incS _)) (k.poll _)) (k.readStack _)

/-- What the parts of an instruction keep, every instruction's cycles keep, whether or not they end in a refusal. -/
theorem exec_run (i : Instr) (s : State) : ∃ u, Machine.exec i s = finish u ∧ R s u := by
  cases i <;> refine ⟨_, rfl, ?_⟩
  case jmpAbs => exact k.trans (k.trans (k.trans (k.fetch s) (k.poll _)) (k.rd _ _)) (k.setPc _ _)
  case jmpInd =>
    exact k.trans (k.trans (k.trans (k.trans (k.trans (k.fetch s) (k.fetch _)) (k.rd _ _)) (k.poll _)) (k.rd _ _))
      (k.setPc _ _)
  case jsr =>
    refine k.trans ?_ (k.setPc _ _)
    refine k.trans ?_ (k.rd _ _)
    refine k.trans ?_ (k.poll _)
    exact k.trans (k.trans (k.trans (k.fetch s) (k.dummyStack _)) (k.push _ _)) (k.push _ _)
  case rts =>
    refine k.trans ?_ (k.fetch _)
    refine k.trans ?_ (k.poll _)
    refine k.trans ?_ (k.setPc _ _)
    refine k.trans ?_ (k.readStack _)
    refine k.trans ?_ (k.incS _)
    refine k.trans ?_ (k.readStack _)
    exact k.trans (k.trans (k.dummyFetch s) (k.dummyStack _)) (k.incS _)
  case pha => exact k.trans (k.trans (k.dummyFetch s) (k.poll _)) (k.push _ _)
  case php => exact k.trans (k.trans (k.dummyFetch s) (k.poll _)) (k.push _ _)
  case pla => exact k.readOp _ (k.pullByte s)
  case plp => exact k.trans (k.pullByte s) (k.setP _ _)
  case brk => exact k.trans (k.fetch s) (k.enterInterrupt _ _)
  case rti => exact k.trans (k.dummyFetch s) (k.returnFromInterrupt _)
  case unassigned => exact k.refuse _ _
  case clc | sec | cli | sei | cld | sed | clv => exact k.impliedOp _ s
  all_goals with_reducible first
    | exact k.readOp _ (k.readImm s)
    | exact k.readOp _ (k.readAt (k.eaZp s))
    | exact k.readOp _ (k.readAt (k.eaZpx s))
    | exact k.readOp _ (k.readAt (k.eaZpy s))
    | exact k.readOp _ (k.readAt (k.eaAbs s))
    | exact k.readOp _ (k.readAt (k.eaAbsxRead s))
    | exact k.readOp _ (k.readAt (k.eaAbsyRead s))
    | exact k.readOp _ (k.readAt (k.eaIndx s))
    | exact k.readOp _ (k.readAt (k.eaIndyRead s))
    | exact k.writeAt _ (k.eaZp s)
    | exact k.writeAt _ (k.eaZpx s)
    | exact k.writeAt _ (k.eaZpy s)
    | exact k.writeAt _ (k.eaAbs s)
    | exact k.writeAt _ (k.eaAbsxWrite s)
    | exact k.writeAt _ (k.eaAbsyWrite s)
    | exact k.writeAt _ (k.eaIndx s)
    | exact k.writeAt _ (k.eaIndyWrite s)
    | exact k.modifyAt _ (k.eaZp s)
    | exact k.modifyAt _ (k.eaZpx s)
    | exact k.modifyAt _ (k.eaAbs s)
    | exact k.modifyAt _ (k.eaAbsxWrite s)
    | exact k.impliedOp _ s
    | exact k.branch _ s

theorem exec {i : Instr} {s t : State} (h : exec i s = .next t) : R s t := by
  obtain ⟨u, hu, hr⟩ := k.exec_run i s
  obtain ⟨-, rfl⟩ := finish_next (hu ▸ h)
  exact hr

/-- What the parts of an instruction keep, the sprite DMA keeps, when the request and one more tick do (R590). -/
theorem dmaCopy (page : Byte) (n : Nat) (i : Byte) (s : State) : R s (dmaCopy page n i s) := by
  induction n generalizing i s with
  | zero => exact k.refl s
  | succ n ih => exact k.trans (k.trans (k.rd _ s) (k.wr _ _ _)) (ih (i + 1) _)

theorem oamDma (hd : ∀ s, R s { s with dmaReq := none }) (ht : ∀ s, R s (tickCycle s)) (page : Byte) (s : State) :
    R s (oamDma page s) := by
  unfold Machine.oamDma doIf
  dsimp only
  split_ifs
  · exact k.trans (k.trans (k.trans (hd s) (ht _)) (ht _)) (k.dmaCopy _ _ _ _)
  · exact k.trans (k.trans (hd s) (ht _)) (k.dmaCopy _ _ _ _)

theorem runDma (hd : ∀ s, R s { s with dmaReq := none }) (ht : ∀ s, R s (tickCycle s)) (s : State) : R s (runDma s) := by
  unfold Machine.runDma
  split
  · exact k.refl s
  · exact k.trans (k.oamDma hd ht _ s) (k.poll _)

/-- What the parts of an instruction, the request and a tick keep, every step keeps. -/
theorem step (hd : ∀ s, R s { s with dmaReq := none }) (ht : ∀ s, R s (tickCycle s)) {s t : State}
    (h : step s = .next t) : R s t := by
  unfold Machine.step at h
  split at h
  · cases h
  · split_ifs at h
    · obtain ⟨-, rfl⟩ := finish_next h
      exact k.trans (k.clearDue s) (k.interruptDispatch _)
    · unfold afterInstr at h
      dsimp only at h
      split at h
      · next u hu =>
        obtain ⟨-, rfl⟩ := finish_next h
        exact k.trans (k.trans (k.fetch s) (k.exec hu)) (k.runDma hd ht u)
      all_goals cases h

end Kept

/-! ### The refusal mark stays -/

theorem routeRead_marked {s : State} {r : Refusal} (h : s.refused = some r) (a : Addr) :
    (routeRead a s).2.refused = some r := by
  unfold routeRead
  split_ifs
  · exact h
  · unfold ppuRead
    split_ifs
    · exact h
    · unfold oamdataRead; split_ifs <;> simp [h]
    · unfold dataRead
      dsimp only
      split_ifs
      · simp [h]
      · exact h
      · exact h
    · exact h
  all_goals exact h

theorem ppuRegisterWrite_marked {s : State} {r : Refusal} (h : s.refused = some r) (n : Nat) (v : Byte) :
    (ppuRegisterWrite n v s).refused = some r := by
  unfold ppuRegisterWrite
  split_ifs
  · exact h
  · exact h
  · exact h
  · unfold oamdataWrite
    split_ifs
    · simp [h]
    · exact h
  · exact h
  · exact h
  · unfold dataWrite
    split_ifs
    · simp [h]
    · exact h
  · exact h

theorem routeWrite_marked {s : State} {r : Refusal} (h : s.refused = some r) (a : Addr) (v : Byte) :
    (routeWrite a v s).refused = some r := by
  unfold routeWrite
  split_ifs
  · exact h
  · unfold ppuWrite
    dsimp only
    split_ifs
    · exact h
    · exact ppuRegisterWrite_marked (by exact h) _ v
  all_goals exact h

/-- The refusal mark and its reason stay through every part of an instruction (R17). -/
theorem keptRefused : Kept (fun s t => ∀ r, s.refused = some r → t.refused = some r) where
  refl := fun _ _ h => h
  trans := fun h k r hr => k r (h r hr)
  rd := fun a s r h => routeRead_marked (s := tickCycle s) (by simpa using h) a
  wr := fun a v s r h => routeWrite_marked (s := tickCycle s) (by simpa using h) a v
  regs := fun _ _ _ h => h
  poll := fun _ _ h => h
  clearLatch := fun _ _ h => h
  clearDue := fun _ _ h => h
  refuse := fun _ s r h => by simp [h]

end Sys2Proof.Machine
end

