-- ==== Sys2Proof/Laws/Flags.lean ====
section
/-!
SUPPORT. The flag computations in numbers: N is 128 or more, C the ninth bit, V the overflow of the signed sum.
-/

namespace Sys2Proof.Machine

theorem bit_seven (m : Byte) : bit m 7 = decide (128 ≤ m.toNat) := by
  have h : bit m 7 = m.msb := by simp [bit, BitVec.msb_eq_getLsbD_last]
  rw [h, BitVec.msb_eq_decide]

theorem bit_zero (m : Byte) : bit m 0 = decide (m.toNat % 2 = 1) := by
  simp [bit, BitVec.getLsbD, Nat.testBit_zero]

theorem setNZ_eq (m : Byte) (p : Flags) : setNZ m p = p.nz m := by
  simp [setNZ, Flags.nz, bit_seven, ← BitVec.toNat_inj]

@[simp] theorem flagBit_toNat (n : Nat) (b : Bool) (h : 0 < n) : (flagBit n b).toNat = num b := by
  have h2 : 1 < 2 ^ n := Nat.one_lt_two_pow (by omega)
  cases b
  · simp [flagBit, num]
  · simp [flagBit, num, Nat.mod_eq_of_lt h2]

theorem num_le (b : Bool) : num b ≤ 1 := by cases b <;> decide

theorem carrySum_toNat (a m : Byte) (c : Bool) : (carrySum a m c).toNat = addNat a m c := by
  have h1 := a.isLt
  have h2 := m.isLt
  have h3 := num_le c
  simp [carrySum, addNat, BitVec.toNat_add]
  omega

theorem sumByte_eq (a m : Byte) (c : Bool) : sumByte a m c = BitVec.ofNat 8 (addNat a m c) := by
  apply BitVec.eq_of_toNat_eq
  simp [sumByte, carrySum_toNat]

theorem sumByte_toNat (a m : Byte) (c : Bool) : (sumByte a m c).toNat = addNat a m c % 256 := by
  simp [sumByte_eq]

theorem carry_eq (a m : Byte) (c : Bool) : bit (carrySum a m c) 8 = decide (255 < addNat a m c) := by
  have h1 := a.isLt
  have h2 := m.isLt
  have h3 := num_le c
  have h : bit (carrySum a m c) 8 = (carrySum a m c).msb := by simp [bit, BitVec.msb_eq_getLsbD_last]
  rw [h, BitVec.msb_eq_decide, carrySum_toNat]
  simp only [decide_eq_decide]
  unfold addNat
  omega

theorem overflow_eq (a m : Byte) (c : Bool) :
    bit ((a ^^^ sumByte a m c) &&& (m ^^^ sumByte a m c)) 7 = overflows (addInt a m c) := by
  have h1 := a.isLt
  have h2 := m.isLt
  have h3 := num_le c
  have hx : bit ((a ^^^ sumByte a m c) &&& (m ^^^ sumByte a m c)) 7 =
      ((bit a 7 ^^ bit (sumByte a m c) 7) && (bit m 7 ^^ bit (sumByte a m c) 7)) := by
    simp [bit]
  rw [hx, bit_seven, bit_seven, bit_seven, sumByte_toNat]
  unfold overflows addInt addNat
  rw [BitVec.toInt_eq_toNat_cond, BitVec.toInt_eq_toNat_cond]
  generalize num c = k at *
  generalize a.toNat = x at *
  generalize m.toNat = y at *
  rw [Bool.eq_iff_iff]
  simp
  split_ifs <;> omega

/-- ADC on the register file is the sum in numbers (R271). -/
theorem addWithCarry_eq (m : Byte) (r : Regs) : addWithCarry m r = addResult m r := by
  unfold addWithCarry addFlags addResult
  dsimp only
  rw [carry_eq, overflow_eq, setNZ_eq, Flags.nz, sumByte_eq]

theorem inverted_toNat (m : Byte) : (m ^^^ (0xFF : Byte)).toNat = 255 - m.toNat := by
  have : m ^^^ (0xFF : Byte) = ~~~m := by
    rw [← BitVec.xor_allOnes]
    rfl
  rw [this, BitVec.toNat_not]

theorem inverted_toInt (m : Byte) : (m ^^^ (0xFF : Byte)).toInt = -1 - m.toInt := by
  have h := m.isLt
  rw [BitVec.toInt_eq_toNat_cond, BitVec.toInt_eq_toNat_cond, inverted_toNat]
  split_ifs <;> omega

/-- SBC on the register file is the difference in numbers (R272). -/
theorem subtractWithBorrow_eq (m : Byte) (r : Regs) : subtractWithBorrow m r = subResult m r := by
  have h1 := r.a.isLt
  have h2 := m.isLt
  have hk : (num (!r.p.c) : Int) = 1 - num r.p.c := by cases r.p.c <;> rfl
  have hn : (addNat r.a (m ^^^ 0xFF) r.p.c : Int) = subNat r.a m r.p.c + 256 := by
    unfold addNat subNat
    rw [inverted_toNat, hk]
    omega
  have hi : addInt r.a (m ^^^ 0xFF) r.p.c = subInt r.a m r.p.c := by
    unfold addInt subInt
    rw [inverted_toInt, hk]
    omega
  have hv : BitVec.ofNat 8 (addNat r.a (m ^^^ 0xFF) r.p.c) = BitVec.ofInt 8 (subNat r.a m r.p.c) := by
    rw [← BitVec.ofInt_natCast, hn]
    apply BitVec.eq_of_toInt_eq
    rw [BitVec.toInt_ofInt, BitVec.toInt_ofInt]
    simp [Int.bmod_def]
  have hc : decide (255 < addNat r.a (m ^^^ 0xFF) r.p.c) = decide (0 ≤ subNat r.a m r.p.c) := by
    rw [decide_eq_decide]
    omega
  unfold subtractWithBorrow
  rw [addWithCarry_eq]
  unfold addResult subResult
  simp only [hv, hi, hc]

/-- The flags of a comparison in numbers (R276-R278). -/
theorem compareFlags_eq (v m : Byte) (p : Flags) : compareFlags v m p = cmpResult v m p := by
  have h1 := v.isLt
  have h2 := m.isLt
  unfold compareFlags cmpResult
  rw [bit_seven]
  simp only [BitVec.le_def, ← BitVec.toNat_inj, BitVec.toNat_sub]
  have e : (2 ^ 8 - m.toNat + v.toNat) % 2 ^ 8 = (v.toNat + (256 - m.toNat)) % 256 := by omega
  simp only [e]

theorem aslByte_eq (m : Byte) (p : Flags) : aslByte m p = aslResult m p := by
  have e : m <<< 1 = BitVec.ofNat 8 (2 * m.toNat) := by
    apply BitVec.eq_of_toNat_eq
    simp [Nat.shiftLeft_eq]
    omega
  simp only [aslByte, aslResult, shifted, setNZ_eq, bit_seven, e]

theorem lsrByte_eq (m : Byte) (p : Flags) : lsrByte m p = lsrResult m p := by
  have e : m >>> 1 = BitVec.ofNat 8 (m.toNat / 2) := by
    apply BitVec.eq_of_toNat_eq
    simp [Nat.shiftRight_eq_div_pow]
    omega
  simp only [lsrByte, lsrResult, shifted, setNZ_eq, bit_zero, e]

theorem rolByte_eq (m : Byte) (p : Flags) : rolByte m p = rolResult m p := by
  have e : (m <<< 1) ||| flagBit 8 p.c = BitVec.ofNat 8 (2 * m.toNat + num p.c) := by
    have h := num_le p.c
    apply BitVec.eq_of_toNat_eq
    rw [BitVec.toNat_or, flagBit_toNat 8 _ (by decide), BitVec.toNat_shiftLeft, BitVec.toNat_ofNat]
    have : m.toNat <<< 1 % 2 ^ 8 = 2 ^ 1 * (m.toNat % 128) := by
      rw [Nat.shiftLeft_eq]
      omega
    rw [this, ← Nat.two_pow_add_eq_or_of_lt (i := 1) (by omega)]
    omega
  simp only [rolByte, rolResult, shifted, setNZ_eq, bit_seven, e]

theorem rorByte_eq (m : Byte) (p : Flags) : rorByte m p = rorResult m p := by
  have e : (m >>> 1) ||| (flagBit 8 p.c <<< 7) = BitVec.ofNat 8 (m.toNat / 2 + 128 * num p.c) := by
    have h := num_le p.c
    have h1 := m.isLt
    apply BitVec.eq_of_toNat_eq
    rw [BitVec.toNat_or, BitVec.toNat_ushiftRight, BitVec.toNat_shiftLeft, flagBit_toNat 8 _ (by decide),
      BitVec.toNat_ofNat, Nat.or_comm]
    have : num p.c <<< 7 % 2 ^ 8 = 2 ^ 7 * num p.c := by
      rw [Nat.shiftLeft_eq]
      omega
    rw [this, ← Nat.two_pow_add_eq_or_of_lt (i := 7) (by rw [Nat.shiftRight_eq_div_pow]; omega), Nat.shiftRight_eq_div_pow]
    omega
  simp only [rorByte, rorResult, shifted, setNZ_eq, bit_zero, e]

theorem incByte_eq (m : Byte) (p : Flags) : incByte m p = incResult m p := by
  have e : m + 1 = BitVec.ofNat 8 (m.toNat + 1) := by
    apply BitVec.eq_of_toNat_eq
    simp
  simp only [incByte, incResult, shifted, setNZ_eq, e]

theorem decByte_eq (m : Byte) (p : Flags) : decByte m p = decResult m p := by
  have e : m - 1 = BitVec.ofNat 8 (m.toNat + 255) := by
    apply BitVec.eq_of_toNat_eq
    rw [BitVec.toNat_sub]
    simp
    omega
  simp only [decByte, decResult, shifted, setNZ_eq, e]

end Sys2Proof.Machine
end

