-- ==== Sys2Proof/Laws/Interrupt.lean ====
section
/-!
SUPPORT. Everything that taking an interrupt can do: the cells it pushes to, the vector it takes, its cycles, what it
leaves; and what pushes leave outside their cells.
-/

namespace Sys2Proof.Machine

theorem sub_one_one (x : Byte) : x - 1#8 - 1#8 = x - 2#8 := by bv_omega
theorem sub_one_one_one (x : Byte) : x - 1#8 - 1#8 - 1#8 = x - 3#8 := by bv_omega

/-- A stack cell named from a pointer `j` further on. -/
theorem stackCell_shift {s t : State} {j : Byte} (h : t.cpu.s = s.cpu.s + j) (k : Byte) :
    stackCell t k = stackCell s (j + k) := by
  simp [stackCell, h, BitVec.add_assoc]

theorem sameCell_stack_ne (s : State) {j k : Byte} (h : j ≠ k) : sameCell (stackCell s j) (stackCell s k) = false := by
  simp [sameCell_stack, h]

theorem sameCell_stack_self (s : State) (k : Byte) : sameCell (stackCell s k) (stackCell s k) = true := by
  simp [sameCell_stack]

/-- No stack cell lies outside work RAM. -/
theorem sameCell_stack_high (s : State) (k : Byte) {a : Addr} (h : 0x1FFF < a.toNat) :
    sameCell (stackCell s k) a = false := by
  have := stackCell_le s k
  simp [sameCell, this]
  intro h2
  omega

theorem memByte_isSome_high (s : State) {a : Addr} (h : 0x6000 ≤ a.toNat) : (memByte s a).isSome = true := by
  unfold memByte
  split_ifs <;> first | rfl | omega

/-- The memories behind two pushes. -/
theorem memByte_push_push (u v : Byte) (s : State) (a : Addr) : memByte (push v (push u s)) a =
    if sameCell (stackCell s (-1)) a then some v
    else if sameCell (stackCell s 0) a then some u else memByte s a := by
  rw [memByte_push, memByte_push, stackCell_shift (s := s) (j := -1) (t := push u s) (by simp [BitVec.sub_eq_add_neg])]
  rfl

/-! ### What pushes leave -/

/-- Equal but for reads and work RAM. -/
def SameButRam (s t : State) : Prop := s.sameButReads { t with ram := s.ram }

theorem SameButRam.of_same {s t : State} (h : s.sameButReads t) : SameButRam s t := ⟨rfl, h.2⟩

theorem SameButRam.trans {s t u : State} (h : SameButRam s t) (k : SameButRam t u) : SameButRam s u := by
  have := State.sameButReads.trans (s := s) (t := { t with ram := s.ram }) (u := { u with ram := s.ram }) h
    ⟨rfl, k.2⟩
  exact this

theorem SameButRam.push (v : Byte) (s : State) : SameButRam s (push v s) := push_same v s

/-! ### Taking an interrupt -/

/-- Taking an interrupt, in all it does to the register file and the stack (R403, R406, R407). -/
theorem enterInterrupt_entered (b : Bool) (s : State) :
    s.entered b s.cpu.pc (push (lo8 s.cpu.pc) (push (hi8 s.cpu.pc) s)).intr.nmiLatched (enterInterrupt b s) := by
  obtain ⟨s4, h4⟩ : ∃ s4, s4 = push (lo8 s.cpu.pc) (push (hi8 s.cpu.pc) s) := ⟨_, rfl⟩
  have c4 : s4.cpu = { s.cpu with s := s.cpu.s - 2 } := by
    simp [h4]
    exact sub_one_one _
  have p4 : s4.cpu.p = s.cpu.p := by rw [c4]
  have p5 : (push (pushedImage b s.cpu.p) (clearLatch s4)).cpu.p = s.cpu.p := by simp [p4]
  obtain ⟨s5, h5⟩ : ∃ s5, s5 = setP { s.cpu.p with i := true } (push (pushedImage b s.cpu.p) (clearLatch s4)) := ⟨_, rfl⟩
  have e : enterInterrupt b s = loadVector (chosenVector s4) s5 := by
    unfold enterInterrupt
    dsimp only
    rw [← h4, p4, p5, ← h5]
  have key : ∀ a, memByte s5 a = if sameCell (stackCell s (-2)) a then some (pushedImage b s.cpu.p)
      else if sameCell (stackCell s (-1)) a then some (lo8 s.cpu.pc)
      else if sameCell (stackCell s 0) a then some (hi8 s.cpu.pc) else memByte s a := by
    intro a
    rw [h5, setP_memByte, memByte_push, clearLatch_memByte, stackCell_shift (s := s) (j := -2), h4, memByte_push_push]
    · rfl
    · rw [clearLatch_cpu, c4]
      simp [BitVec.sub_eq_add_neg]
  have hv : ∀ a : Addr, 0x6000 ≤ a.toNat → s5.byteAt a = s.byteAt a := by
    intro a ha
    simp [State.byteAt, key, sameCell_stack_high s _ (show 0x1FFF < a.toNat by omega)]
  rw [e, ← h4]
  refine ⟨?_, ?_, ?_, ?_⟩
  · have c5 : s5.cpu = { s.cpu with s := s.cpu.s - 3, p := { s.cpu.p with i := true } } := by
      rw [h5]
      simp [c4]
      bv_omega
    unfold chosenVector
    cases hn : s4.intr.nmiLatched
    · simp only [Bool.false_eq_true, if_false]
      rw [loadVector_cpu (memByte_isSome_high _ (by decide)) (memByte_isSome_high _ (by decide)), hv _ (by decide),
        hv _ (by decide), c5, show irqVector + 1 = (0xFFFF : Addr) by decide, show irqVector = (0xFFFE : Addr) by decide]
    · simp only [if_true]
      rw [loadVector_cpu (memByte_isSome_high _ (by decide)) (memByte_isSome_high _ (by decide)), hv _ (by decide),
        hv _ (by decide), c5, show nmiVector + 1 = (0xFFFB : Addr) by decide, show nmiVector = (0xFFFA : Addr) by decide]
  · rw [(loadVector_same _ _).memByte, key]
    simp [sameCell_stack_ne, sameCell_stack_self]
  · rw [(loadVector_same _ _).memByte, key]
    simp [sameCell_stack_ne, sameCell_stack_self]
  · rw [(loadVector_same _ _).memByte, key]
    simp [sameCell_stack_self]

theorem enterInterrupt_apart (b : Bool) (s : State) : Apart 5 s (enterInterrupt b s) := by
  unfold enterInterrupt
  dsimp only
  constructor
  · rw [(loadVector_apart _ _).1, setP_totalCycles, (push_apart _ _).1, clearLatch_totalCycles, (push_apart _ _).1,
      (push_apart _ _).1]
  · rw [(loadVector_apart _ _).2, setP_clock, (push_apart _ _).2, clearLatch_clock, (push_apart _ _).2,
      (push_apart _ _).2]

theorem dataPort_chosenVector (s : State) : dataPort (chosenVector s) = false ∧ dataPort (chosenVector s + 1) = false := by
  unfold chosenVector
  split_ifs <;> decide

theorem enterInterrupt_permits {n : Nat} {as : List Addr} (b : Bool) {s : State} (h : s.permits (n + 5) as = true) :
    (enterInterrupt b s).permits n as = true := by
  unfold enterInterrupt
  dsimp only
  refine loadVector_permits (dataPort_chosenVector _).1 (dataPort_chosenVector _).2 ?_
  rw [permits_setP]
  refine push_permits _ ?_
  rw [permits_clearLatch]
  exact push_permits _ (push_permits _ h)

theorem enterInterrupt_same (b : Bool) (s : State) : SameButRam s (enterInterrupt b s) := by
  unfold enterInterrupt
  dsimp only
  refine SameButRam.trans ?_ (SameButRam.of_same (loadVector_same _ _))
  exact (((SameButRam.push _ s).trans (SameButRam.push _ _)).trans
    (SameButRam.push (pushedImage b _) (clearLatch (push _ (push _ s)))))

/-- Taking an interrupt stores to its three stack cells alone (R403). -/
theorem enterInterrupt_frame (b : Bool) (s : State) :
    s.stackFrame [stackCell s 0, stackCell s (-1), stackCell s (-2)] (enterInterrupt b s) := by
  refine ⟨enterInterrupt_same b s, fun a ha => ?_⟩
  simp only [List.all_cons, List.all_nil, Bool.and_true, Bool.and_eq_true, Bool.not_eq_true'] at ha
  obtain ⟨h0, h1, h2⟩ := ha
  unfold enterInterrupt
  dsimp only
  rw [(loadVector_same _ _).memByte, setP_memByte, memByte_push, clearLatch_memByte, memByte_push_push, h0, h1,
    stackCell_shift (s := s) (j := -2), show (-2 : Byte) + 0 = -2 by decide, h2]
  · rfl
  · simp [sub_one_one]
    simp [BitVec.sub_eq_add_neg]

@[simp] theorem enterInterrupt_intDue (b : Bool) (s : State) : (enterInterrupt b s).intr.intDue = s.intr.intDue := by
  unfold enterInterrupt
  dsimp only
  rw [loadVector_intDue]
  show (push _ (clearLatch _)).intr.intDue = _
  rw [push_intDue]
  show (push _ (push _ s)).intr.intDue = _
  rw [push_intDue, push_intDue]

/-! ### The latch -/

/-- No NMI edge can come within `n` ticks: the enable is clear, or the line is high, or it has just fallen at the start of
the pre-render line. -/
def State.NoEdge (n : Nat) (s : State) : Prop :=
  s.ppu.nmiEnable = false ∨ (s.ppu.vblank = true ∧ s.intr.nmiLine = true) ∨
    (s.ppu.vblank = false ∧ s.ppu.scanline = 261 ∧ s.ppu.dot + n ≤ 338)

theorem State.NoEdge.of_eq {n : Nat} {s t : State} (h : s.NoEdge n) (hp : t.ppu = s.ppu)
    (hi : t.intr.nmiLine = s.intr.nmiLine) : t.NoEdge n := by
  unfold State.NoEdge; rw [hp, hi]; exact h

/-- A tick uses one of them up and latches nothing (R410, R411). -/
theorem State.NoEdge.ppuTick {n : Nat} {s : State} (hn : n < 330) (h : s.NoEdge (n + 1)) :
    (ppuTick s).NoEdge n ∧ (ppuTick s).intr.nmiLatched = s.intr.nmiLatched := by
  have hv : (s.ppu.tick s.cfg s.cart).vblank = _ :=
    (tick_vblank s.cfg s.cart s.ppu).trans (executeDot_vblank s.cfg s.cart s.ppu)
  obtain ⟨hs, hd, -⟩ := tick_position s.cfg s.cart s.ppu
  unfold Machine.ppuTick updateNmi
  rcases h with h | ⟨h1, h2⟩ | ⟨h1, h2, h3⟩
  · refine ⟨.inl (by simpa using h), ?_⟩
    simp [h]
  · by_cases hz : s.ppu.scanline = 261 ∧ s.ppu.dot = 0
    · have hv' : (s.ppu.tick s.cfg s.cart).vblank = false := by rw [hv]; simp [hz.1, hz.2]
      refine ⟨.inr (.inr ⟨hv', ?_, ?_⟩), ?_⟩
      · show (s.ppu.tick s.cfg s.cart).scanline = 261
        rw [hs]; simp [Ppu.advance, Ppu.skipsDot, hz.1, hz.2]
      · show (s.ppu.tick s.cfg s.cart).dot + n ≤ 338
        rw [hd]; simp [Ppu.advance, Ppu.skipsDot, hz.1, hz.2]; omega
      · simp [hv']
    · have hv' : (s.ppu.tick s.cfg s.cart).vblank = true := by rw [hv]; split_ifs <;> simp_all
      cases he : s.ppu.nmiEnable
      · exact ⟨.inl (by simpa using he), by simp [he]⟩
      · refine ⟨.inr (.inl ⟨hv', ?_⟩), ?_⟩
        · simp [hv', he]
        · simp [h2]
  · have hv' : (s.ppu.tick s.cfg s.cart).vblank = false := by rw [hv]; simp [h1, h2]
    have g1 : ¬ s.ppu.dot = 338 := by omega
    have g2 : ¬ s.ppu.dot = 340 := by omega
    refine ⟨.inr (.inr ⟨hv', ?_, ?_⟩), ?_⟩
    · show (s.ppu.tick s.cfg s.cart).scanline = 261
      rw [hs]; simp [Ppu.advance, Ppu.skipsDot, h2, g1, g2]
    · show (s.ppu.tick s.cfg s.cart).dot + n ≤ 338
      rw [hd]; simp [Ppu.advance, Ppu.skipsDot, h2, g1, g2]; omega
    · simp [hv']

/-- A bus cycle's ticks use up three and latch nothing (R99, R410). -/
theorem State.NoEdge.tickCycle {n : Nat} {s : State} (hn : n < 300) (h : s.NoEdge (n + 3)) :
    (tickCycle s).NoEdge n ∧ (tickCycle s).intr.nmiLatched = s.intr.nmiLatched := by
  obtain ⟨a, a'⟩ := State.NoEdge.ppuTick (n := n + 2) (by omega) h
  obtain ⟨b, b'⟩ := State.NoEdge.ppuTick (n := n + 1) (by omega) a
  obtain ⟨c, c'⟩ := State.NoEdge.ppuTick (n := n) (by omega) b
  refine ⟨?_, c'.trans (b'.trans a')⟩
  obtain ⟨u, hu⟩ : ∃ u, u = Machine.ppuTick (Machine.ppuTick (Machine.ppuTick s)) := ⟨_, rfl⟩
  rw [← hu] at c
  unfold Machine.tickCycle
  rw [← hu]
  have : ∀ b : Bool, (doIf b Ppu.decayStep u.ppu).nmiEnable = u.ppu.nmiEnable ∧
      (doIf b Ppu.decayStep u.ppu).vblank = u.ppu.vblank ∧ (doIf b Ppu.decayStep u.ppu).scanline = u.ppu.scanline ∧
      (doIf b Ppu.decayStep u.ppu).dot = u.ppu.dot := by
    intro b
    unfold doIf Ppu.decayStep
    split_ifs <;> exact ⟨rfl, rfl, rfl, rfl⟩
  unfold State.NoEdge at *
  dsimp only
  obtain ⟨e1, e2, e3, e4⟩ := this (decide (u.cfg.decayUnit = .cpuCycle))
  rw [e1, e2, e3, e4]
  exact c

end Sys2Proof.Machine
end

