-- ==== Sys2Proof/Laws/PerInstr.lean ====
section
/-!
SUPPORT. One lemma per constructor of Instr: the opcode byte of a well-formed instruction decodes to it (R147, R152).
-/

namespace Sys2Proof.Laws.OpcodeRoundTrip

/-- The opcode byte of a well-formed instruction decodes to that instruction, whatever bytes follow it. -/
def Statement (i : Instr) : Prop := i.wf = true → decodeOpcode i.opcode = i

theorem ldaImm : Statement .ldaImm := fun _ => rfl

theorem ldaZp : Statement .ldaZp := fun _ => rfl

theorem ldaZpx : Statement .ldaZpx := fun _ => rfl

theorem ldaAbs : Statement .ldaAbs := fun _ => rfl

theorem ldaAbsx : Statement .ldaAbsx := fun _ => rfl

theorem ldaAbsy : Statement .ldaAbsy := fun _ => rfl

theorem ldaIndx : Statement .ldaIndx := fun _ => rfl

theorem ldaIndy : Statement .ldaIndy := fun _ => rfl

theorem ldxImm : Statement .ldxImm := fun _ => rfl

theorem ldxZp : Statement .ldxZp := fun _ => rfl

theorem ldxZpy : Statement .ldxZpy := fun _ => rfl

theorem ldxAbs : Statement .ldxAbs := fun _ => rfl

theorem ldxAbsy : Statement .ldxAbsy := fun _ => rfl

theorem ldyImm : Statement .ldyImm := fun _ => rfl

theorem ldyZp : Statement .ldyZp := fun _ => rfl

theorem ldyZpx : Statement .ldyZpx := fun _ => rfl

theorem ldyAbs : Statement .ldyAbs := fun _ => rfl

theorem ldyAbsx : Statement .ldyAbsx := fun _ => rfl

theorem staZp : Statement .staZp := fun _ => rfl

theorem staZpx : Statement .staZpx := fun _ => rfl

theorem staAbs : Statement .staAbs := fun _ => rfl

theorem staAbsx : Statement .staAbsx := fun _ => rfl

theorem staAbsy : Statement .staAbsy := fun _ => rfl

theorem staIndx : Statement .staIndx := fun _ => rfl

theorem staIndy : Statement .staIndy := fun _ => rfl

theorem stxZp : Statement .stxZp := fun _ => rfl

theorem stxZpy : Statement .stxZpy := fun _ => rfl

theorem stxAbs : Statement .stxAbs := fun _ => rfl

theorem styZp : Statement .styZp := fun _ => rfl

theorem styZpx : Statement .styZpx := fun _ => rfl

theorem styAbs : Statement .styAbs := fun _ => rfl

theorem tax : Statement .tax := fun _ => rfl

theorem tay : Statement .tay := fun _ => rfl

theorem txa : Statement .txa := fun _ => rfl

theorem tya : Statement .tya := fun _ => rfl

theorem tsx : Statement .tsx := fun _ => rfl

theorem txs : Statement .txs := fun _ => rfl

theorem adcImm : Statement .adcImm := fun _ => rfl

theorem adcZp : Statement .adcZp := fun _ => rfl

theorem adcZpx : Statement .adcZpx := fun _ => rfl

theorem adcAbs : Statement .adcAbs := fun _ => rfl

theorem adcAbsx : Statement .adcAbsx := fun _ => rfl

theorem adcAbsy : Statement .adcAbsy := fun _ => rfl

theorem adcIndx : Statement .adcIndx := fun _ => rfl

theorem adcIndy : Statement .adcIndy := fun _ => rfl

theorem sbcImm : Statement .sbcImm := fun _ => rfl

theorem sbcZp : Statement .sbcZp := fun _ => rfl

theorem sbcZpx : Statement .sbcZpx := fun _ => rfl

theorem sbcAbs : Statement .sbcAbs := fun _ => rfl

theorem sbcAbsx : Statement .sbcAbsx := fun _ => rfl

theorem sbcAbsy : Statement .sbcAbsy := fun _ => rfl

theorem sbcIndx : Statement .sbcIndx := fun _ => rfl

theorem sbcIndy : Statement .sbcIndy := fun _ => rfl

theorem andImm : Statement .andImm := fun _ => rfl

theorem andZp : Statement .andZp := fun _ => rfl

theorem andZpx : Statement .andZpx := fun _ => rfl

theorem andAbs : Statement .andAbs := fun _ => rfl

theorem andAbsx : Statement .andAbsx := fun _ => rfl

theorem andAbsy : Statement .andAbsy := fun _ => rfl

theorem andIndx : Statement .andIndx := fun _ => rfl

theorem andIndy : Statement .andIndy := fun _ => rfl

theorem oraImm : Statement .oraImm := fun _ => rfl

theorem oraZp : Statement .oraZp := fun _ => rfl

theorem oraZpx : Statement .oraZpx := fun _ => rfl

theorem oraAbs : Statement .oraAbs := fun _ => rfl

theorem oraAbsx : Statement .oraAbsx := fun _ => rfl

theorem oraAbsy : Statement .oraAbsy := fun _ => rfl

theorem oraIndx : Statement .oraIndx := fun _ => rfl

theorem oraIndy : Statement .oraIndy := fun _ => rfl

theorem eorImm : Statement .eorImm := fun _ => rfl

theorem eorZp : Statement .eorZp := fun _ => rfl

theorem eorZpx : Statement .eorZpx := fun _ => rfl

theorem eorAbs : Statement .eorAbs := fun _ => rfl

theorem eorAbsx : Statement .eorAbsx := fun _ => rfl

theorem eorAbsy : Statement .eorAbsy := fun _ => rfl

theorem eorIndx : Statement .eorIndx := fun _ => rfl

theorem eorIndy : Statement .eorIndy := fun _ => rfl

theorem cmpImm : Statement .cmpImm := fun _ => rfl

theorem cmpZp : Statement .cmpZp := fun _ => rfl

theorem cmpZpx : Statement .cmpZpx := fun _ => rfl

theorem cmpAbs : Statement .cmpAbs := fun _ => rfl

theorem cmpAbsx : Statement .cmpAbsx := fun _ => rfl

theorem cmpAbsy : Statement .cmpAbsy := fun _ => rfl

theorem cmpIndx : Statement .cmpIndx := fun _ => rfl

theorem cmpIndy : Statement .cmpIndy := fun _ => rfl

theorem cpxImm : Statement .cpxImm := fun _ => rfl

theorem cpxZp : Statement .cpxZp := fun _ => rfl

theorem cpxAbs : Statement .cpxAbs := fun _ => rfl

theorem cpyImm : Statement .cpyImm := fun _ => rfl

theorem cpyZp : Statement .cpyZp := fun _ => rfl

theorem cpyAbs : Statement .cpyAbs := fun _ => rfl

theorem bitZp : Statement .bitZp := fun _ => rfl

theorem bitAbs : Statement .bitAbs := fun _ => rfl

theorem incZp : Statement .incZp := fun _ => rfl

theorem incZpx : Statement .incZpx := fun _ => rfl

theorem incAbs : Statement .incAbs := fun _ => rfl

theorem incAbsx : Statement .incAbsx := fun _ => rfl

theorem decZp : Statement .decZp := fun _ => rfl

theorem decZpx : Statement .decZpx := fun _ => rfl

theorem decAbs : Statement .decAbs := fun _ => rfl

theorem decAbsx : Statement .decAbsx := fun _ => rfl

theorem inx : Statement .inx := fun _ => rfl

theorem iny : Statement .iny := fun _ => rfl

theorem dex : Statement .dex := fun _ => rfl

theorem dey : Statement .dey := fun _ => rfl

theorem aslAcc : Statement .aslAcc := fun _ => rfl

theorem aslZp : Statement .aslZp := fun _ => rfl

theorem aslZpx : Statement .aslZpx := fun _ => rfl

theorem aslAbs : Statement .aslAbs := fun _ => rfl

theorem aslAbsx : Statement .aslAbsx := fun _ => rfl

theorem lsrAcc : Statement .lsrAcc := fun _ => rfl

theorem lsrZp : Statement .lsrZp := fun _ => rfl

theorem lsrZpx : Statement .lsrZpx := fun _ => rfl

theorem lsrAbs : Statement .lsrAbs := fun _ => rfl

theorem lsrAbsx : Statement .lsrAbsx := fun _ => rfl

theorem rolAcc : Statement .rolAcc := fun _ => rfl

theorem rolZp : Statement .rolZp := fun _ => rfl

theorem rolZpx : Statement .rolZpx := fun _ => rfl

theorem rolAbs : Statement .rolAbs := fun _ => rfl

theorem rolAbsx : Statement .rolAbsx := fun _ => rfl

theorem rorAcc : Statement .rorAcc := fun _ => rfl

theorem rorZp : Statement .rorZp := fun _ => rfl

theorem rorZpx : Statement .rorZpx := fun _ => rfl

theorem rorAbs : Statement .rorAbs := fun _ => rfl

theorem rorAbsx : Statement .rorAbsx := fun _ => rfl

theorem jmpAbs : Statement .jmpAbs := fun _ => rfl

theorem jmpInd : Statement .jmpInd := fun _ => rfl

theorem jsr : Statement .jsr := fun _ => rfl

theorem rts : Statement .rts := fun _ => rfl

theorem bpl : Statement .bpl := fun _ => rfl

theorem bmi : Statement .bmi := fun _ => rfl

theorem bvc : Statement .bvc := fun _ => rfl

theorem bvs : Statement .bvs := fun _ => rfl

theorem bcc : Statement .bcc := fun _ => rfl

theorem bcs : Statement .bcs := fun _ => rfl

theorem bne : Statement .bne := fun _ => rfl

theorem beq : Statement .beq := fun _ => rfl

theorem pha : Statement .pha := fun _ => rfl

theorem php : Statement .php := fun _ => rfl

theorem pla : Statement .pla := fun _ => rfl

theorem plp : Statement .plp := fun _ => rfl

theorem clc : Statement .clc := fun _ => rfl

theorem sec : Statement .sec := fun _ => rfl

theorem cli : Statement .cli := fun _ => rfl

theorem sei : Statement .sei := fun _ => rfl

theorem cld : Statement .cld := fun _ => rfl

theorem sed : Statement .sed := fun _ => rfl

theorem clv : Statement .clv := fun _ => rfl

theorem nop : Statement .nop := fun _ => rfl

theorem brk : Statement .brk := fun _ => rfl

theorem rti : Statement .rti := fun _ => rfl

theorem unassigned (op : Byte) : Statement (.unassigned op) := decodeOpcode_of_unassigned op

end Sys2Proof.Laws.OpcodeRoundTrip
end

