-- ==== Sys2Proof/Laws/Pixel.lean ====
section
/-!
SUPPORT. The pixel of a dot and sprite evaluation: palette cells, what a rendering dot keeps, where evaluation stops and what
the overflow scan finds.
-/

namespace Sys2Proof.Machine

/-- With an eighth sprite in range the loop of `evaluate_sprites` stops behind it (R520). -/
theorem findSprites_next (oam : Mem) (h s : Nat) : ∀ (fuel : Nat) (k : Scan), k.count < 8 →
    ∀ e, ((List.range' k.next fuel).filter (fun n => inRange (readCell oam (4 * n)) h s))[7 - k.count]? = some e →
    (findSprites oam h s fuel k).next = e + 1 := by
  intro fuel
  induction fuel with
  | zero => intro k hk e he; simp at he
  | succ fuel ih =>
    intro k hk e he
    unfold findSprites
    rw [if_neg (by omega)]
    dsimp only
    rw [List.range'_succ, List.filter_cons] at he
    by_cases hc : inRange (readCell oam (4 * k.next)) h s = true
    · rw [if_pos hc] at he ⊢
      by_cases h7 : k.count = 7
      · rw [h7] at he
        simp at he
        have : ∀ k : Scan, k.count = 8 → (findSprites oam h s fuel k) = k := by
          intro k hk; cases fuel <;> simp [findSprites, hk]
        rw [this _ (by simp [h7])]
        simp [he]
      · refine ih _ (by simp; omega) e ?_
        simp only
        rw [show 7 - k.count = (7 - (k.count + 1)) + 1 by omega, List.getElem?_cons_succ] at he
        exact he
    · rw [if_neg hc] at he ⊢
      exact ih { secondary := _, count := k.count, next := k.next + 1 } hk e he

/-- The overflow scan finds a byte in range at one of the places of its misaligned cursor (R521). -/
theorem overflowScan_iff (oam : Mem) (h s : Nat) : ∀ (fuel n m : Nat), m < 4 → (overflowScan oam h s fuel n m = true ↔
    ∃ j, j < fuel ∧ inRange (readCell oam (4 * (n + j) + (m + j) % 4)) h s = true) := by
  intro fuel
  induction fuel with
  | zero => intro n m hm; simp [overflowScan]
  | succ fuel ih =>
    intro n m hm
    unfold overflowScan
    constructor
    · intro hh
      split_ifs at hh with h1
      · exact ⟨0, by omega, by simpa [Nat.mod_eq_of_lt hm] using h1⟩
      · obtain ⟨j, hj, hi⟩ := (ih _ _ (Nat.mod_lt _ (by omega))).1 hh
        refine ⟨j + 1, by omega, ?_⟩
        rw [show n + (j + 1) = n + 1 + j by omega, show (m + (j + 1)) % 4 = ((m + 1) % 4 + j) % 4 by omega]
        exact hi
    · rintro ⟨j, hj, hi⟩
      by_cases h1 : inRange (readCell oam (4 * n + m)) h s = true
      · rw [if_pos h1]
      · rw [if_neg h1]
        refine (ih _ _ (Nat.mod_lt _ (by omega))).2 ⟨j - 1, ?_⟩
        have : j ≠ 0 := by rintro rfl; simp [Nat.mod_eq_of_lt hm] at hi; exact h1 hi
        refine ⟨by omega, ?_⟩
        rw [show n + 1 + (j - 1) = n + j by omega, show ((m + 1) % 4 + (j - 1)) % 4 = (m + j) % 4 by omega]
        exact hi

/-- The palette cell of an opaque sprite pixel (R452, R529). -/
theorem paletteAt_sprite (p : Ppu) (v q : BitVec 2) (hv : v ≠ 0) :
    p.paletteAt (0x3F10 + 4 * q.setWidth 14 + v.setWidth 14) = readCell p.palette (16 + 4 * q.toNat + v.toNat) := by
  have : ∀ v q : BitVec 2, v ≠ 0 → palidx (0x3F10 + 4 * q.setWidth 14 + v.setWidth 14) = 16 + 4 * q.toNat + v.toNat := by decide
  unfold Ppu.paletteAt; rw [this v q hv]

/-- The palette cell of an opaque background pixel (R452, R529). -/
theorem paletteAt_background (p : Ppu) (v q : BitVec 2) (hv : v ≠ 0) :
    p.paletteAt (0x3F00 + 4 * q.setWidth 14 + v.setWidth 14) = readCell p.palette (4 * q.toNat + v.toNat) := by
  have : ∀ v q : BitVec 2, v ≠ 0 → palidx (0x3F00 + 4 * q.setWidth 14 + v.setWidth 14) = 4 * q.toNat + v.toNat := by decide
  unfold Ppu.paletteAt; rw [this v q hv]

/-- Only opaque pixels are sprite pixels (R528). -/
theorem slotDot_value {sp : SpritePipe} {x i : Nat} {d : SpriteDot} (h : sp.slotDot x i = some d) : d.value ≠ 0 := by
  unfold SpritePipe.slotDot at h
  dsimp only at h
  split_ifs at h with h1 h2
  cases h; exact h2

theorem spritePixel_value {p : Ppu} {x : Nat} {d : SpriteDot} (h : p.spritePixel x = some d) : d.value ≠ 0 := by
  unfold Ppu.spritePixel at h
  split_ifs at h
  obtain ⟨i, -, hi⟩ := List.exists_of_findSome?_eq_some h
  exact slotDot_value hi

/-- The rendering lines of a dot change the pipelines, v, the overflow flag and the OAM address alone (R511). -/
theorem renderDot_field {α : Type} (g : Ppu → α)
    (h1 : ∀ p b sp sc ov oa,
      g { p with bg := b, spr := sp, scroll := sc, spriteOverflow := ov, oamaddr := oa } = g p)
    (c : Cartridge) (p : Ppu) : g (p.renderDot c) = g p := by
  have hd : ∀ (b : Bool) (f : Ppu → Ppu) (q : Ppu), (∀ q, g (f q) = g q) → g (doIf b f q) = g q := by
    intro b f q h; cases b <;> simp [doIf, h]
  unfold Ppu.renderDot
  dsimp only
  rw [hd, hd, hd, hd, hd, hd, hd]
  · intro q; unfold Ppu.bgDot Ppu.bgFetch; dsimp only; split_ifs <;> exact h1 q _ _ _ _ _
  · intro q; exact h1 q _ _ _ _ _
  · intro q; unfold Ppu.evaluateSprites; dsimp only; split_ifs <;> exact h1 q _ _ _ _ _
  all_goals (intro q; exact h1 q _ _ _ _ _)

end Sys2Proof.Machine
end

