-- ==== Sys2Proof/Laws/Poll.lean ====
section
/-!
SUPPORT. What a poll decides, in the terms of the claims, and that a read cycle neither sees the register file nor the due
request.
-/

namespace Sys2Proof.Machine

/-- The state with its due request as given. -/
def State.withDue (b : Bool) (s : State) : State := { s with intr := { s.intr with intDue := b } }

/-- A poll sets the due request and nothing else (R412). -/
theorem poll_eq (s : State) : poll s = s.withDue (s.duePolling s s.cpu.p.i) := by
  simp [poll, State.withDue, State.duePolling, Bool.and_comm]

/-- A poll in a later cycle of the instruction that began in `s` (R204, R412). -/
theorem poll_intDue {s k : State} (h1 : k.intr.intDue = s.intr.intDue) (h2 : k.cpu.p = s.cpu.p) :
    (poll k).intr.intDue = s.duePolling k s.cpu.p.i := by
  rw [poll_eq]
  show State.duePolling k k k.cpu.p.i = _
  unfold State.duePolling
  rw [h1, h2]

/-- A read cycle sees nothing of the register file. -/
theorem rd_regs (a : Addr) (c : Regs) (s : State) :
    rd a { s with cpu := c } = ((rd a s).1, { (rd a s).2 with cpu := c }) := by
  show routeRead a { tickCycle s with cpu := c } = _
  unfold rd routeRead
  dsimp only
  split_ifs <;> try rfl
  unfold ppuRead statusRead oamdataRead dataRead
  dsimp only
  split_ifs <;> try rfl
  all_goals simp [refuse_eq]

/-- A read cycle sees nothing of the due request. -/
theorem rd_withDue (a : Addr) (b : Bool) (s : State) : rd a (s.withDue b) = ((rd a s).1, (rd a s).2.withDue b) := by
  show routeRead a ((tickCycle s).withDue b) = _
  unfold rd routeRead State.withDue
  dsimp only
  split_ifs <;> try rfl
  unfold ppuRead statusRead oamdataRead dataRead
  dsimp only
  split_ifs <;> try rfl
  all_goals simp [refuse_eq]

end Sys2Proof.Machine
end

