-- ==== Sys2Proof/Laws/Rows.lean ====
section
/-!
SUPPORT. The rows of the opcode table as the shared operations they call, and when such an operation completes and what
it leaves: one lemma per access class.
-/

namespace Sys2Proof.Machine

/-! ### The rows -/

theorem exec_readRow {r : Row} (h : r ∈ readRows) : ∃ op, ∀ s, exec r.instr s = finish (readOp op (r.form.read s)) := by
  fin_cases h <;> exact ⟨_, fun _ => rfl⟩

theorem exec_writeRow {r : Row} (h : r ∈ writeRows) : r.form ≠ .imm ∧
    ∃ g : Regs → Byte, ∀ s, exec r.instr s = finish (writeAt (g s.cpu) (r.form.writeTarget s)) := by
  refine ⟨by fin_cases h <;> decide, ?_⟩
  fin_cases h
  iterate 7 exact ⟨Regs.a, fun _ => rfl⟩
  iterate 3 exact ⟨Regs.x, fun _ => rfl⟩
  iterate 3 exact ⟨Regs.y, fun _ => rfl⟩

theorem exec_rmwRow {r : Row} (h : r ∈ rmwRows) : r.form ≠ .imm ∧
    ∃ op, ∀ s, exec r.instr s = finish (modifyAt op (r.form.writeTarget s)) := by
  refine ⟨by fin_cases h <;> decide, ?_⟩
  fin_cases h <;> exact ⟨_, fun _ => rfl⟩

theorem exec_branchRow {r : BranchRow} (h : r ∈ branchRows) (s : State) :
    exec r.instr s = finish (branch (r.taken s) s) := by
  have e1 : ∀ b : Bool, (b == false) = !b := by decide
  have e2 : ∀ b : Bool, (b == true) = b := by decide
  fin_cases h <;> simp only [BranchRow.taken, e1, e2] <;> rfl

theorem exec_twoCycle {i : Instr} (h : i ∈ twoCycleInstrs) : ∃ op, ∀ s, exec i s = finish (impliedOp op s) := by
  fin_cases h <;> exact ⟨_, fun _ => rfl⟩

/-- The instructions in no class of R181, no branch, and not of two cycles in the implied mode. -/
def otherInstrs : List Instr := [.jmpAbs, .jmpInd, .jsr, .rts, .pha, .php, .pla, .plp, .brk, .rti]

/-- Every instruction is of one of these kinds. -/
theorem instr_kind (i : Instr) : (∃ r ∈ readRows, r.instr = i) ∨ (∃ r ∈ writeRows, r.instr = i) ∨
    (∃ r ∈ rmwRows, r.instr = i) ∨ (∃ r ∈ branchRows, r.instr = i) ∨ i ∈ twoCycleInstrs ∨ i ∈ otherInstrs ∨
    ∃ op, i = .unassigned op := by
  have e : (∃ r ∈ branchRows, r.instr = i) ↔ i ∈ branchRows.map BranchRow.instr := by simp
  rw [e]
  cases i with
  | unassigned op => exact .inr (.inr (.inr (.inr (.inr (.inr ⟨op, rfl⟩)))))
  | _ =>
    first
      | exact .inl (by decide +kernel)
      | exact .inr (.inl (by decide +kernel))
      | exact .inr (.inr (.inl (by decide +kernel)))
      | exact .inr (.inr (.inr (.inl (by decide +kernel))))
      | exact .inr (.inr (.inr (.inr (.inl (by decide +kernel)))))
      | exact .inr (.inr (.inr (.inr (.inr (.inl (by decide +kernel))))))

/-! ### The access classes -/

theorem readsTo_of {r : Row} {s : State} {op f : Byte → Regs → Regs} (hd : decodeOpcode r.byte = r.instr)
    (he : exec r.instr s = finish (readOp op (r.form.read s))) (hf : ∀ m k, op m k = f m k) : r.readsTo s f := by
  refine ⟨hd, fun hp => ⟨readOp op (r.form.read s), ?_, ?_, ?_⟩⟩
  · rw [he, finish_of_none]
    exact Form.read_refused hp
  · simp [readOp, Form.read_cpu, hf]
  · have h := (Form.read_apart r.form s).1
    have : 1 ≤ r.form.readCycles s := by cases r.form <;> simp [Form.readCycles] <;> omega
    simp [readOp]
    omega

theorem stores_of {r : Row} {s : State} {v : Byte} (hd : decodeOpcode r.byte = r.instr) (hi : r.form ≠ .imm)
    (he : exec r.instr s = finish (writeAt v (r.form.writeTarget s))) : r.stores s v := by
  refine ⟨hd, fun hp => ⟨writeAt v (r.form.writeTarget s), ?_, writeAt_cpu hi v s, ?_, rfl, ?_⟩⟩
  · rw [he, finish_of_none (writeAt_refused v hp)]
  · have := (writeAt_apart hi v s).1
    have := r.form.writeCycles_ge
    omega
  · intro h1 h2
    have := memByte_wr h1 (s := poll (r.form.writeTarget s).2)
      (by rw [poll_memByte, (LeadKeeps.writeTarget _ _).same.memByte]; exact h2) (r.form.writeTarget s).1 v
    refine this.trans ?_
    simp [sameCell]

theorem modifies_of {r : Row} {s : State} {op f : Byte → Flags → Byte × Flags} (hd : decodeOpcode r.byte = r.instr)
    (hi : r.form ≠ .imm) (he : exec r.instr s = finish (modifyAt op (r.form.writeTarget s)))
    (hf : ∀ m p, op m p = f m p) : r.modifies s f := by
  have hf : op = f := by
    funext m p
    exact hf m p
  subst hf
  refine ⟨hd, fun hp => ⟨modifyAt op (r.form.writeTarget s), ?_, modifyAt_cpu hi op s, ?_, modifyAt_eq hi op s, ?_⟩⟩
  · rw [he, finish_of_none (modifyAt_refused op hp)]
  · have := (modifyAt_apart hi op s).1
    have := r.form.writeCycles_ge
    simp only [Form.rmwCycles] at *
    omega
  · intro h1 v hv
    have hl := (LeadKeeps.writeTarget r.form s).same
    have hm := rd_value ((hl.memByte _).trans hv)
    refine ⟨hm, ?_⟩
    have hs : (memByte (rd (r.form.writeTarget s).1 (r.form.writeTarget s).2).2 (r.form.writeTarget s).1).isSome = true := by
      rw [rd_memByte, hl.memByte, hv]
      rfl
    rw [modifyAt_eq hi, setP_memByte, memByte_wr h1]
    · simp [sameCell, hm]
    · rw [poll_memByte, memByte_wr h1 hs]
      simp [sameCell]

theorem impliedDoes_of {i : Instr} {b : Byte} {s : State} {op f : Regs → Regs} (hd : decodeOpcode b = i)
    (he : exec i s = finish (impliedOp op s)) (hf : ∀ k, op k = f k) : impliedDoes i b s f := by
  refine ⟨hd, fun hp => ⟨impliedOp op s, ?_, ?_, ?_⟩⟩
  · rw [he, finish_of_none]
    exact permits_refused (dummyFetch_permits (n := 0) (as := [s.cpu.pc]) (s := poll s) (.inl (by simp))
      (by rw [permits_poll]; exact hp))
  · simp [impliedOp, hf]
  · have := (dummyFetch_apart (poll s)).1
    show (dummyFetch (poll s)).totalCycles + 1 = _
    rw [this]
    rfl

/-! ### Counts through the updates that take no cycle -/

theorem Apart.mapRegs {n : Nat} {s t : State} (f : Regs → Regs) (h : Apart n s t) : Apart n s (mapRegs f t) := ⟨h.1, h.2⟩
theorem Apart.setPc {n : Nat} {s t : State} (a : Addr) (h : Apart n s t) : Apart n s (setPc a t) := ⟨h.1, h.2⟩
theorem Apart.incS {n : Nat} {s t : State} (h : Apart n s t) : Apart n s (incS t) := ⟨h.1, h.2⟩

/-- The cycles of a branch behind its opcode fetch (R194). -/
theorem branch_apart (b : Bool) (s : State) : Apart (branchCycles b s - 1) s (branch b s) := by
  unfold branch branchCycles
  dsimp only
  have c : (fetch (poll s)).2.cpu.pc = branchNext s := by
    rw [fetch_cpu]
    rfl
  have a2 : Apart 0 s (poll s) := ⟨rfl, rfl⟩
  rw [c, fetch_poll, show branchNext s + sext16 (fetch s).1 = branchTarget (fetch s).1 s from rfl]
  cases b
  · exact Apart.of_eq (a2.trans (Apart.fetch _)) rfl
  · simp only [if_true]
    by_cases h1 : hi8 (branchTarget (fetch s).1 s) = hi8 (branchNext s)
    · rw [if_pos h1, if_pos h1]
      have := (a2.trans (Apart.fetch _)).trans (dummyFetch_apart (fetch (poll s)).2)
      exact ⟨this.1, this.2⟩
    · rw [if_neg h1, if_neg h1]
      have := ((a2.trans (Apart.fetch _)).trans (dummyFetch_apart (fetch (poll s)).2)).poll.trans
        (Apart.rd (word (hi8 (branchNext s)) (lo8 (branchTarget (fetch s).1 s))) _)
      exact ⟨this.1, this.2⟩

end Sys2Proof.Machine
end

