-- ==== Sys2Proof/Laws/Resting.lean ====
section
/-!
SUPPORT. Bus cycles while the PPU rests on the pre-render line, as it does from power-on to the first instruction: only
the dot counter and the clocks move.
-/

namespace Sys2Proof.Machine

/-- A PPU at rest on the pre-render line: rendering disabled, no flag set, the open-bus byte decayed. -/
structure Ppu.Resting (p : Ppu) : Prop where
  mask : p.mask = 0
  vblank : p.vblank = false
  hit : p.sprite0Hit = false
  overflow : p.spriteOverflow = false
  timer : p.decayTimer = 0
  line : p.scanline = 261

/-- A tick of a resting PPU moves the dot counter alone (R476). -/
theorem Ppu.Resting.tick {p : Ppu} (h : p.Resting) (hd : p.dot < 338) (cfg : Params) (c : Cartridge) :
    p.tick cfg c = { p with dot := p.dot + 1 } := by
  obtain ⟨ctrl, mask, vb, h0, so, oa, rb, io, dt, sc, sl, d, od, fc, bg, sp, oam, ci, pa, fr⟩ := p
  obtain ⟨rfl, rfl, rfl, rfl, rfl, rfl⟩ := h
  dsimp only at hd
  have h1 : ¬ d = 338 := by omega
  have h2 : ¬ d + 1 = 341 := by omega
  cases cfg with
  | mk decayUnit => cases decayUnit <;> by_cases h3 : d = 0 <;>
    simp [Ppu.tick, Ppu.executeDot, Ppu.frameDot, Ppu.renderingActive, Ppu.renderingEnabled, Ppu.showBg, Ppu.decayStep,
      Ppu.advance, Ppu.skipsDot, Ppu.clearFrameFlags, doIf, h1, h2, h3, bit]

/-- The state `n` cycles later, when only the PPU's dot counter and the clocks move. -/
def State.later (n : Nat) (s : State) : State :=
  { s with clock := s.clock + n, totalCycles := s.totalCycles + n, ppu := { s.ppu with dot := s.ppu.dot + 3 * n } }

/-- A cycle's ticks over a resting PPU (R99). -/
theorem tickCycle_resting {s : State} (h : s.ppu.Resting) (hd : s.ppu.dot < 330) (hl : s.intr.nmiLine = false) :
    tickCycle s = s.later 1 := by
  have hu : ∀ t : State, t.ppu.Resting → t.ppu.dot < 338 → t.intr.nmiLine = false →
      ppuTick t = { t with ppu := { t.ppu with dot := t.ppu.dot + 1 } } := by
    intro t h hd hl
    rw [ppuTick, h.tick hd]
    obtain ⟨cpu, ⟨nl, la, du⟩, dr, ck, tc, rf, ra, pp, ca, pd, au, cf⟩ := t
    have := h.vblank
    simp only at hl this
    simp [updateNmi, this, hl]
  have h1 := hu s h (by omega) hl
  have h2 := hu { s with ppu := { s.ppu with dot := s.ppu.dot + 1 } } ⟨h.1, h.2, h.3, h.4, h.5, h.6⟩
    (by dsimp only; omega) hl
  have h3 := hu { s with ppu := { s.ppu with dot := s.ppu.dot + 2 } } ⟨h.1, h.2, h.3, h.4, h.5, h.6⟩
    (by dsimp only; omega) hl
  replace h3 : ppuTick (ppuTick (ppuTick s)) = { s with ppu := { s.ppu with dot := s.ppu.dot + 3 } } := by
    rw [h1, h2, h3]
  unfold tickCycle
  simp [h3, State.later, doIf, Ppu.decayStep, h.timer]

theorem later_resting {s : State} (h : s.ppu.Resting) (n : Nat) : (s.later n).ppu.Resting :=
  ⟨h.1, h.2, h.3, h.4, h.5, h.6⟩

/-- A read of memory gives its byte and changes nothing (R92, R95, R96). -/
theorem routeRead_mem {a : Addr} {s : State} {v : Byte} (h : memByte s a = some v) : routeRead a s = (v, s) := by
  unfold memByte at h
  unfold routeRead
  split_ifs at h ⊢ <;> simp_all <;> omega

/-- A read cycle of memory over a resting PPU (R99). -/
theorem rd_resting {s : State} (h : s.ppu.Resting) (hd : s.ppu.dot < 330) (hl : s.intr.nmiLine = false) {a : Addr}
    (hm : (memByte s a).isSome = true) : rd a s = (s.byteAt a, s.later 1) := by
  obtain ⟨v, hv⟩ := Option.isSome_iff_exists.1 hm
  have hv' : memByte (s.later 1) a = some v := hv
  rw [rd, tickCycle_resting h hd hl, routeRead_mem hv', State.byteAt, hv]; rfl

end Sys2Proof.Machine
end

