-- ==== Sys2Proof/Tests/Slice0.lean ====
section
/-!
SUPPORT. Tests: ill-formed terms, decoded words, single steps with the results of spec/95 and of the rules' Example
lines, and for every statement of Certificates/Slice0/Obligations.lean with hypotheses a state that meets them.
-/

namespace Sys2Proof.Tests

open Sys2Proof Sys2Proof.Machine

/-! ### Well-formedness and decoding -/

/-- 0xEA is NOP (R147), so it is no unassigned byte; 0x02 is one (R150). -/
theorem test_wf_unassigned : (Instr.unassigned 0xEA).wf = false ∧ (Instr.unassigned 0x02).wf = true := by decide

/-- The table's word of a row, least significant byte first: A9 imm, AD abs, 00 BRK. -/
theorem test_decode_table_words : decodeTableWord 8 0xA9 = some .ldaImm ∧ decodeTableWord 24 0x0000AD = some .ldaAbs ∧
    decodeTableWord 8 0x00 = some .brk := by decide

/-- Loads, stores, transfers (R240-R251). -/
theorem test_decode_load_store : decode [0xB1, 0x10] = .ok ⟨.ldaIndy, [0x10], []⟩ ∧
    decode [0xBE, 0x00, 0x03] = .ok ⟨.ldxAbsy, [0x00, 0x03], []⟩ ∧
    decode [0x94, 0x20] = .ok ⟨.styZpx, [0x20], []⟩ ∧ decode [0xBA] = .ok ⟨.tsx, [], []⟩ := by decide

/-- Arithmetic and logic (R271-R285). -/
theorem test_decode_arithmetic : decode [0x69, 0x50] = .ok ⟨.adcImm, [0x50], []⟩ ∧
    decode [0xF9, 0x00, 0x02] = .ok ⟨.sbcAbsy, [0x00, 0x02], []⟩ ∧
    decode [0x24, 0x10] = .ok ⟨.bitZp, [0x10], []⟩ ∧ decode [0xDE, 0x00, 0x03] = .ok ⟨.decAbsx, [0x00, 0x03], []⟩ := by
  decide

/-- Shifts and rotates (R310-R313). -/
theorem test_decode_shift : decode [0x4A] = .ok ⟨.lsrAcc, [], []⟩ ∧ decode [0x36, 0x20] = .ok ⟨.rolZpx, [0x20], []⟩ ∧
    decode [0x7E, 0x00, 0x04] = .ok ⟨.rorAbsx, [0x00, 0x04], []⟩ := by decide

/-- Control transfer (R330-R341). -/
theorem test_decode_control : decode [0x4C, 0x00, 0xC0] = .ok ⟨.jmpAbs, [0x00, 0xC0], []⟩ ∧
    decode [0x60] = .ok ⟨.rts, [], []⟩ ∧ decode [0x50, 0x1E] = .ok ⟨.bvc, [0x1E], []⟩ ∧
    decode [0xF0, 0x00] = .ok ⟨.beq, [0x00], []⟩ := by decide

/-- Stack, flags, system (R360-R373, R395). -/
theorem test_decode_system : decode [0x48] = .ok ⟨.pha, [], []⟩ ∧ decode [0xB8] = .ok ⟨.clv, [], []⟩ ∧
    decode [0x40, 0x01] = .ok ⟨.rti, [], [0x01]⟩ ∧ decode [0xFF] = .ok ⟨.unassigned 0xFF, [], []⟩ := by decide

/-! ### Single steps -/

/-- A machine at 0x8000 with the given register file and bytes of memory. -/
def machine (a x y s p : Byte) (code : List Byte) (mem : List (Addr × List Byte)) : State :=
  let t := mem.foldl (fun t m => placeBytes m.1 m.2 t) (placeBytes 0x8000 code State.reset)
  { t with cpu := { a := a, x := x, y := y, s := s, pc := 0x8000, p := pulledImage p } }

/-- A register file, P as its image with bit 5 set, and the cycles of one step. -/
structure Seen where
  a : Byte
  x : Byte
  y : Byte
  s : Byte
  p : Byte
  pc : Addr
  cycles : Nat
deriving DecidableEq, Repr

/-- The register file after one step. -/
def registers (s : State) : Option Seen :=
  match step s with
  | .next t => some ⟨t.cpu.a, t.cpu.x, t.cpu.y, t.cpu.s, pushedImage false t.cpu.p, t.cpu.pc, t.clock - s.clock⟩
  | .fault _ => none
  | .refused _ => none

/-- Something of the state after one step. -/
def after {α : Type} (s : State) (f : State → α) : Option α :=
  match step s with
  | .next t => some (f t)
  | .fault _ => none
  | .refused _ => none

/-- The refusal of one step. -/
def refusal (s : State) : Option Refusal :=
  match step s with
  | .next _ => none
  | .fault _ => none
  | .refused r => some r

/-- V40.2: the carry of the index costs a cycle. -/
theorem test_lda_absx_crosses :
    registers (machine 0 0x20 0 0xFD 0x24 [0xBD, 0xF0, 0x02] [(0x0210, [0x11]), (0x0310, [0x99])]) =
      some ⟨0x99, 0x20, 0, 0xFD, 0xA4, 0x8003, 5⟩ := by decide +kernel

/-- V40.6: the pointer's high byte comes from 0x0000. -/
theorem test_lda_indx_wraps :
    registers (machine 0 0 0 0xFD 0x24 [0xA1, 0xFF]
      [(0x00FF, [0x34]), (0x0000, [0x02]), (0x0100, [0x07]), (0x0234, [0xAB])]) =
      some ⟨0xAB, 0, 0, 0xFD, 0xA4, 0x8002, 6⟩ := by decide +kernel

/-- V40.5. -/
theorem test_ldx_zpy_wraps :
    registers (machine 0 0 0x20 0xFD 0x24 [0xB6, 0xF0] [(0x0010, [0x67]), (0x0110, [0x99])]) =
      some ⟨0, 0x67, 0x20, 0xFD, 0x24, 0x8002, 4⟩ := by decide +kernel

/-- R242, Example. -/
theorem test_ldy_imm :
    registers (machine 0 0 0 0xFD 0x24 [0xA0, 0xFF] []) = some ⟨0, 0, 0xFF, 0xFD, 0xA4, 0x8002, 2⟩ := by decide +kernel

/-- V40.3: the extra cycle is taken without a carry. -/
theorem test_sta_absx :
    registers (machine 0x55 0x10 0 0xFD 0x24 [0x9D, 0x80, 0x02] []) = some ⟨0x55, 0x10, 0, 0xFD, 0x24, 0x8003, 5⟩ ∧
      after (machine 0x55 0x10 0 0xFD 0x24 [0x9D, 0x80, 0x02] []) (memByte · 0x0290) = some (some 0x55) := by
  decide +kernel

/-- V41.8: 0x0800 is a mirror of 0x0000. -/
theorem test_sta_mirror :
    after (machine 0x12 0 0 0xFD 0x24 [0x8D, 0x00, 0x08] []) (memByte · 0x0000) = some (some 0x12) := by decide +kernel

/-- V41.3. -/
theorem test_stx_zpy_wraps :
    after (machine 0 0x33 0xF5 0xFD 0x24 [0x96, 0x10] []) (fun t => (memByte t 0x0005, t.clock)) =
      some (some 0x33, 11) := by decide +kernel

/-- R245, Example: register 6 of the PPU receives 0x3F (R473). -/
theorem test_sty_ppu_address :
    after (machine 0 0 0x3F 0xFD 0x24 [0x8C, 0x06, 0x20] []) (fun t => (t.ppu.scroll.t, t.ppu.scroll.w)) =
      some (0x3F00, true) := by decide +kernel

/-- R246, Example. -/
theorem test_tax :
    registers (machine 0 0x55 0 0xFD 0x24 [0xAA] []) = some ⟨0, 0, 0, 0xFD, 0x26, 0x8001, 2⟩ := by decide +kernel

/-- R247, Example. -/
theorem test_tay :
    registers (machine 0x90 0 0 0xFD 0x24 [0xA8] []) = some ⟨0x90, 0, 0x90, 0xFD, 0xA4, 0x8001, 2⟩ := by decide +kernel

/-- R248, Example. -/
theorem test_txa :
    registers (machine 0 1 0 0xFD 0x26 [0x8A] []) = some ⟨1, 1, 0, 0xFD, 0x24, 0x8001, 2⟩ := by decide +kernel

/-- R249, Example. -/
theorem test_tya :
    registers (machine 0 0 0xFF 0xFD 0x26 [0x98] []) = some ⟨0xFF, 0, 0xFF, 0xFD, 0xA4, 0x8001, 2⟩ := by decide +kernel

/-- V41.5. -/
theorem test_tsx :
    registers (machine 0 0 0 0x80 0x24 [0xBA] []) = some ⟨0, 0x80, 0, 0x80, 0xA4, 0x8001, 2⟩ := by decide +kernel

/-- V41.6: no flag changes. -/
theorem test_txs :
    registers (machine 1 0 0 0xFD 0x24 [0x9A] []) = some ⟨1, 0, 0, 0, 0x24, 0x8001, 2⟩ := by decide +kernel

/-- V42: D0 + 90 overflows and carries. -/
theorem test_adc_overflows :
    registers (machine 0xD0 0 0 0xFD 0x24 [0x69, 0x90] []) = some ⟨0x60, 0, 0, 0xFD, 0x65, 0x8002, 2⟩ := by decide +kernel

/-- V42: binary with D set, the carry added. -/
theorem test_adc_decimal :
    registers (machine 0x09 0 0 0xFD 0x2C [0x69, 0x01] []) = some ⟨0x0A, 0, 0, 0xFD, 0x2C, 0x8002, 2⟩ := by decide +kernel

/-- V42: 80 − 01 overflows without a borrow. -/
theorem test_sbc_overflows :
    registers (machine 0x80 0 0 0xFD 0x25 [0xE9, 0x01] []) = some ⟨0x7F, 0, 0, 0xFD, 0x65, 0x8002, 2⟩ := by decide +kernel

/-- V42: 05 − 01 with the borrow in. -/
theorem test_sbc_borrow :
    registers (machine 0x05 0 0 0xFD 0x24 [0xE9, 0x01] []) = some ⟨0x03, 0, 0, 0xFD, 0x25, 0x8002, 2⟩ := by decide +kernel

/-- V42. -/
theorem test_and :
    registers (machine 0xF0 0 0 0xFD 0x24 [0x29, 0x0F] []) = some ⟨0, 0, 0, 0xFD, 0x26, 0x8002, 2⟩ := by decide +kernel

/-- V42. -/
theorem test_ora :
    registers (machine 0x80 0 0 0xFD 0x24 [0x09, 0x01] []) = some ⟨0x81, 0, 0, 0xFD, 0xA4, 0x8002, 2⟩ := by decide +kernel

/-- V42. -/
theorem test_eor :
    registers (machine 0x0F 0 0 0xFD 0x24 [0x49, 0xF0] []) = some ⟨0xFF, 0, 0, 0xFD, 0xA4, 0x8002, 2⟩ := by decide +kernel

/-- V42: the comparison is unsigned; V stays. -/
theorem test_cmp :
    registers (machine 0x01 0 0 0xFD 0x64 [0xC9, 0xFF] []) = some ⟨0x01, 0, 0, 0xFD, 0x64, 0x8002, 2⟩ := by decide +kernel

/-- V42. -/
theorem test_cpx :
    registers (machine 0 5 0 0xFD 0x25 [0xE0, 0x0A] []) = some ⟨0, 5, 0, 0xFD, 0xA4, 0x8002, 2⟩ := by decide +kernel

/-- R278, Example. -/
theorem test_cpy :
    registers (machine 0 0 0x10 0xFD 0x24 [0xC0, 0x10] []) = some ⟨0, 0, 0x10, 0xFD, 0x27, 0x8002, 2⟩ := by decide +kernel

/-- V42, the abs form. -/
theorem test_bit :
    registers (machine 1 0 0 0xFD 0x24 [0x2C, 0x00, 0x03] [(0x0300, [0xC0])]) =
      some ⟨1, 0, 0, 0xFD, 0xE6, 0x8003, 4⟩ := by decide +kernel

/-- V42. -/
theorem test_inc :
    registers (machine 0 0 0 0xFD 0x24 [0xE6, 0x10] [(0x10, [0x7F])]) = some ⟨0, 0, 0, 0xFD, 0xA4, 0x8002, 5⟩ ∧
      after (machine 0 0 0 0xFD 0x24 [0xE6, 0x10] [(0x10, [0x7F])]) (memByte · 0x10) = some (some 0x80) := by decide +kernel

/-- V40.19: both writes reach register 6. -/
theorem test_inc_writes_twice :
    after (machine 0 0 0 0xFD 0x24 [0xEE, 0x06, 0x20] []) (fun t => (t.ppu.scroll.v, t.ppu.scroll.w)) =
      some (0x0001, false) := by decide +kernel

/-- V42. -/
theorem test_dec :
    registers (machine 0 0 0 0xFD 0x24 [0xCE, 0x00, 0x03] [(0x0300, [0x01])]) =
      some ⟨0, 0, 0, 0xFD, 0x26, 0x8003, 6⟩ := by decide +kernel

/-- V42: C stays. -/
theorem test_inx :
    registers (machine 0 0xFF 0 0xFD 0x25 [0xE8] []) = some ⟨0, 0, 0, 0xFD, 0x27, 0x8001, 2⟩ := by decide +kernel

/-- R283, Example. -/
theorem test_iny :
    registers (machine 0 0 0 0xFD 0x26 [0xC8] []) = some ⟨0, 0, 1, 0xFD, 0x24, 0x8001, 2⟩ := by decide +kernel

/-- V42. -/
theorem test_dex :
    registers (machine 0 1 0 0xFD 0x24 [0xCA] []) = some ⟨0, 0, 0, 0xFD, 0x26, 0x8001, 2⟩ := by decide +kernel

/-- V42. -/
theorem test_dey :
    registers (machine 0 0 0 0xFD 0x26 [0x88] []) = some ⟨0, 0, 0xFF, 0xFD, 0xA4, 0x8001, 2⟩ := by decide +kernel

/-- V43. -/
theorem test_asl_acc :
    registers (machine 0xC1 0 0 0xFD 0x24 [0x0A] []) = some ⟨0x82, 0, 0, 0xFD, 0xA5, 0x8001, 2⟩ := by decide +kernel

/-- V40.11. -/
theorem test_asl_absx :
    registers (machine 0 1 0 0xFD 0x26 [0x1E, 0x80, 0x02] [(0x0281, [0x81])]) =
      some ⟨0, 1, 0, 0xFD, 0x25, 0x8003, 7⟩ ∧
      after (machine 0 1 0 0xFD 0x26 [0x1E, 0x80, 0x02] [(0x0281, [0x81])]) (memByte · 0x0281) = some (some 0x02) := by
  decide +kernel

/-- V43. -/
theorem test_lsr_acc :
    registers (machine 0xFF 0 0 0xFD 0x25 [0x4A] []) = some ⟨0x7F, 0, 0, 0xFD, 0x25, 0x8001, 2⟩ := by decide +kernel

/-- V43. -/
theorem test_rol_acc :
    registers (machine 0x40 0 0 0xFD 0x25 [0x2A] []) = some ⟨0x81, 0, 0, 0xFD, 0xA4, 0x8001, 2⟩ := by decide +kernel

/-- V43, the memory form. -/
theorem test_ror_abs :
    after (machine 0 0 0 0xFD 0x25 [0x6E, 0x00, 0x04] [(0x0400, [0x02])])
      (fun t => (memByte t 0x0400, pushedImage false t.cpu.p, t.clock)) = some (some 0x81, 0xA4, 13) := by decide +kernel

/-- V44. -/
theorem test_jmp_abs :
    registers (machine 0 0 0 0xFD 0x24 [0x4C, 0x34, 0x12] []) = some ⟨0, 0, 0, 0xFD, 0x24, 0x1234, 3⟩ := by decide +kernel

/-- V40.12: no carry into the pointer's high byte. -/
theorem test_jmp_ind :
    registers (machine 0 0 0 0xFD 0x24 [0x6C, 0xFF, 0x02] [(0x02FF, [0x34, 0x56]), (0x0200, [0x12])]) =
      some ⟨0, 0, 0, 0xFD, 0x24, 0x1234, 5⟩ := by decide +kernel

/-- V40.13. -/
theorem test_jsr :
    registers (machine 0 0 0 0xFD 0x24 [0x20, 0x00, 0x90] []) = some ⟨0, 0, 0, 0xFB, 0x24, 0x9000, 6⟩ ∧
      after (machine 0 0 0 0xFD 0x24 [0x20, 0x00, 0x90] []) (fun t => (memByte t 0x01FD, memByte t 0x01FC)) =
        some (some 0x80, some 0x02) := by decide +kernel

/-- V40.14. -/
theorem test_rts :
    registers (machine 0 0 0 0xFB 0x24 [0x60] [(0x01FC, [0x11, 0x90])]) = some ⟨0, 0, 0, 0xFD, 0x24, 0x9012, 6⟩ := by
  decide +kernel

/-- V44. -/
theorem test_bpl : registers (machine 0 0 0 0xFD 0x24 [0x10, 0x0E] []) = some ⟨0, 0, 0, 0xFD, 0x24, 0x8010, 3⟩ := by
  decide +kernel

/-- V44: not taken. -/
theorem test_bmi : registers (machine 0 0 0 0xFD 0x24 [0x30, 0x0E] []) = some ⟨0, 0, 0, 0xFD, 0x24, 0x8002, 2⟩ := by
  decide +kernel

/-- V44: across the page, from 0x80F0. -/
theorem test_bvc :
    registers (setPc 0x80F0 (machine 0 0 0 0xFD 0x24 [] [(0x80F0, [0x50, 0x1E])])) =
      some ⟨0, 0, 0, 0xFD, 0x24, 0x8110, 4⟩ := by decide +kernel

/-- V44: a branch to itself. -/
theorem test_bvs : registers (machine 0 0 0 0xFD 0x64 [0x70, 0xFE] []) = some ⟨0, 0, 0, 0xFD, 0x64, 0x8000, 3⟩ := by
  decide +kernel

/-- V44: back across the page, from 0x8100. -/
theorem test_bcc :
    registers (setPc 0x8100 (machine 0 0 0 0xFD 0x24 [] [(0x8100, [0x90, 0xEE])])) =
      some ⟨0, 0, 0, 0xFD, 0x24, 0x80F0, 4⟩ := by decide +kernel

/-- V44. -/
theorem test_bcs : registers (machine 0 0 0 0xFD 0x25 [0xB0, 0x03] []) = some ⟨0, 0, 0, 0xFD, 0x25, 0x8005, 3⟩ := by
  decide +kernel

/-- V44: not taken. -/
theorem test_bne : registers (machine 0 0 0 0xFD 0x26 [0xD0, 0xEE] []) = some ⟨0, 0, 0, 0xFD, 0x26, 0x8002, 2⟩ := by
  decide +kernel

/-- V44: taken with the offset 0. -/
theorem test_beq : registers (machine 0 0 0 0xFD 0x26 [0xF0, 0x00] []) = some ⟨0, 0, 0, 0xFD, 0x26, 0x8002, 3⟩ := by
  decide +kernel

/-- V45.6: the stack wraps inside its page. -/
theorem test_pha :
    after (machine 0x5A 0 0 0x00 0x24 [0x48] []) (fun t => (memByte t 0x0100, t.cpu.s, t.clock)) =
      some (some 0x5A, 0xFF, 10) := by decide +kernel

/-- V45.1. -/
theorem test_php :
    after (machine 0 0 0 0xFD 0x25 [0x08] []) (fun t => (memByte t 0x01FD, t.cpu.s)) = some (some 0x35, 0xFC) := by
  decide +kernel

/-- V45.5. -/
theorem test_pla :
    registers (machine 0 0 0 0xFF 0x24 [0x68] [(0x0100, [0x80])]) = some ⟨0x80, 0, 0, 0x00, 0xA4, 0x8001, 4⟩ := by
  decide +kernel

/-- V45.3: bits 5 and 4 are not stored. -/
theorem test_plp :
    registers (machine 0 0 0 0xFC 0x24 [0x28] [(0x01FD, [0xFF])]) = some ⟨0, 0, 0, 0xFD, 0xEF, 0x8001, 4⟩ := by
  decide +kernel

/-- V45.7. -/
theorem test_rti :
    registers (machine 0 0 0 0xFA 0x24 [0x40] [(0x01FB, [0x21, 0x02, 0x80])]) =
      some ⟨0, 0, 0, 0xFD, 0x21, 0x8002, 6⟩ := by decide +kernel

/-- V40.15. -/
theorem test_brk :
    registers (machine 0 0 0 0xFD 0x24 [0x00, 0xEE] [(0xFFFE, [0x00, 0x91])]) =
      some ⟨0, 0, 0, 0xFA, 0x24, 0x9100, 7⟩ ∧
      after (machine 0 0 0 0xFD 0x24 [0x00, 0xEE] [(0xFFFE, [0x00, 0x91])])
        (fun t => (memByte t 0x01FD, memByte t 0x01FC, memByte t 0x01FB)) = some (some 0x80, some 0x02, some 0x34) := by
  decide +kernel

/-- V45.8: each writes its own flag. -/
theorem test_flag_instructions :
    [(0x18, 0xEF, 0xEE), (0x38, 0x20, 0x21), (0x58, 0xEF, 0xEB), (0x78, 0x20, 0x24), (0xB8, 0xEF, 0xAF), (0xD8, 0xEF, 0xE7),
      (0xF8, 0x20, 0x28)].all (fun (k : Byte × Byte × Byte) =>
        registers (machine 0 0 0 0xFD k.2.1 [k.1] []) == some ⟨0, 0, 0, 0xFD, k.2.2, 0x8001, 2⟩) = true := by decide +kernel

/-- V45.9. -/
theorem test_nop : registers (machine 1 2 3 0xFD 0xEF [0xEA] []) = some ⟨1, 2, 3, 0xFD, 0xEF, 0x8001, 2⟩ := by
  decide +kernel

/-- V45.10. -/
theorem test_unassigned :
    refusal (machine 0 0 0 0xFD 0x24 [0x02] []) = some (.unassignedOpcode 0x02) := by decide +kernel

/-- V60.2, its last step: the IRQ is dispatched, P pushed with B = 0. -/
theorem test_irq_dispatch :
    let s := setPc 0x8002 (machine 0 0 0 0xFD 0x20 [] [(0xFFFE, [0x00, 0x91])])
    registers { s with intr := { s.intr with intDue := true } } = some ⟨0, 0, 0, 0xFA, 0x24, 0x9100, 7⟩ ∧
      after { s with intr := { s.intr with intDue := true } }
        (fun t => (memByte t 0x01FD, memByte t 0x01FC, memByte t 0x01FB)) = some (some 0x80, some 0x02, some 0x20) := by
  decide +kernel

/-- R406: a latched NMI takes a BRK over, with B = 1 in the image. -/
theorem test_nmi_takes_brk :
    let s := machine 0 0 0 0xFD 0x24 [0x00, 0xEE] [(0xFFFA, [0x00, 0x90])]
    after { s with intr := { s.intr with nmiLatched := true } }
      (fun t => (t.cpu.pc, memByte t 0x01FB, t.intr.nmiLatched)) = some (0x9000, some 0x34, false) := by decide +kernel

/-- V60.2 and V60.3: CLI polls with the old I = 1, SEI with the old I = 0. -/
theorem test_mask_polls :
    let s := machine 0 0 0 0xFD 0x24 [0x58] []
    let u := machine 0 0 0 0xFD 0x20 [0x78] []
    after { s with audio := { events := [], irqTime := some 0 } } (fun t => t.intr.intDue) = some false ∧
      after { u with audio := { events := [], irqTime := some 0 } } (fun t => t.intr.intDue) = some true := by
  decide +kernel

/-- R204: with an interrupt line asserted and I clear, LDA immediate, STA, INC, JMP, JSR, RTS, PHA and PLA find it, BRK does
not. -/
theorem test_every_poll :
    let due := fun code => after { machine 0 0 0 0xFD 0x20 code [] with audio := { events := [], irqTime := some 0 } }
      (fun t => t.intr.intDue)
    [[0xA9, 0x80], [0x85, 0x10], [0xE6, 0x10], [0x4C, 0x00, 0x90], [0x20, 0x00, 0x90], [0x60], [0x48], [0x68]].all
      (fun code => due code = some true) = true ∧ due [0x00, 0xEE] = some false := by decide +kernel

/-! ### The picture unit and the cartridge -/

/-- The reset state with another picture unit. -/
def withPpu (f : Ppu → Ppu) (s : State) : State := { s with ppu := f s.ppu }

/-- W12: a status read in the suppression window returns vblank and clears the latch; at dot 5 it leaves it. -/
theorem test_status_suppression :
    let s := { withPpu (fun p => { p with vblank := true, ctrl := 0x80, scanline := 241, dot := 2 }) State.reset with
      intr := { nmiLine := true, nmiLatched := true, intDue := false } }
    ((ppuRead 2 s).1, (ppuRead 2 s).2.intr.nmiLatched) = (0x80, false) ∧
      (ppuRead 2 (withPpu (fun p => { p with dot := 5 }) s)).2.intr.nmiLatched = true := by decide +kernel

/-- V61.8. -/
theorem test_scroll_writes :
    (ppuWrite 5 0x5E (ppuWrite 5 0x7D (ppuWrite 0 0x02 State.reset))).ppu.scroll =
      { v := 0, t := 0x696F, x := 5, w := false } := by decide +kernel

/-- V61.5: 0x3F10 is 0x3F00, and six bits are kept. -/
theorem test_palette_writes :
    let s := ppuWrite 7 0xFF (ppuWrite 7 0x2A (ppuWrite 6 0x10 (ppuWrite 6 0x3F State.reset)))
    (readCell s.ppu.palette 0x00, readCell s.ppu.palette 0x11) = (0x2A, 0x3F) := by decide +kernel

/-- V61.10. -/
theorem test_oam_data :
    let s := ppuWrite 3 0x02 (ppuWrite 4 0xFF (ppuWrite 3 0x02 State.reset))
    ((ppuRead 4 s).1, s.ppu.oamaddr, readCell s.ppu.oam 2) = (0xE3, 0x02, 0xFF) := by decide +kernel

/-- V62. -/
theorem test_scroll_arithmetic :
    (incrementCoarseX 0x001F, incrementY 0x73A0, incrementY 0x73E0, incrementY 0x7000) = (0x0400, 0x0800, 0x0000, 0x0020) ∧
      (copyHorizontal 0 0x7FFF, copyVertical 0 0x7FFF) = (0x7BE0, 0x041F) := by decide

/-- V62: sprites 0-7 on the line and sprite 9's tile byte read as a Y. -/
theorem test_sprite_overflow :
    let p := { Ppu.reset with
      scanline := 16
      oam := (List.range 256).map (fun k => (k, if (k % 4 = 0 ∧ k < 32) ∨ k = 37 then (0x10 : Byte) else 0xFF)) }
    (p.evaluateSprites.spr.count, p.evaluateSprites.spriteOverflow) = (8, true) := by decide +kernel

/-- V62: a ninth sprite is found when it stands behind the eighth, and missed one place further on. -/
theorem test_sprite_overflow_missed :
    let ninth := fun n => ({ Ppu.reset with
      scanline := 16
      oam := (List.range 8).map (fun k => (4 * k, (0x10 : Byte))) ++ [(4 * n, 0x10)] } : Ppu).evaluateSprites.spriteOverflow
    (ninth 8, ninth 9) = (true, false) := by decide +kernel

/-- A line on which an opaque pixel of slot zero meets an opaque background pixel at column 36. -/
def hitPpu : Ppu :=
  { Ppu.reset with
    mask := 0x1E
    scanline := 16
    dot := 37
    bg := { Ppu.reset.bg with bgLo := 0x8000 }
    spr := { Ppu.reset.spr with
      slots := Ppu.reset.spr.slots.set 0 { valid := true, lo := 0xFF, hi := 0, attr := 0, x := 36 } } }

/-- W5, first row; no hit at the column of the parameter; a hit stays at another dot and falls at (261, 0). -/
theorem test_sprite_zero_hit :
    let dot := fun p => (Ppu.executeDot Params.default Cartridge.reset p).sprite0Hit
    let last := { hitPpu with
      dot := 256
      spr := { hitPpu.spr with slots := hitPpu.spr.slots.set 0 { valid := true, lo := 0xFF, hi := 0, attr := 0, x := 255 } } }
    (hitPpu.sprite0Hit, dot hitPpu, dot last, dot { hitPpu with sprite0Hit := true, dot := 300 },
      dot { hitPpu with sprite0Hit := true, scanline := 261, dot := 0 }) = (false, true, false, true, false) ∧
      (last.executeDot { Params.default with sprite0NoHitX := .x254 } Cartridge.reset).sprite0Hit = true := by decide +kernel

/-- R529: a sprite pixel in front, behind an opaque background pixel, behind a transparent one; no sprite; neither. -/
theorem test_pixel_colour :
    let slot := fun attr => Ppu.reset.spr.slots.set 0 { valid := true, lo := 0xFF, hi := 0, attr := attr, x := 36 }
    let p := { hitPpu with palette := [(0, 0x0F), (1, 0x11), (25, 0x22)] }
    let at_ := fun (q : Ppu) => q.pixelColour 36
    let clear := fun (q : Ppu) => { q with bg := Ppu.reset.bg }
    let front := { p with spr := { p.spr with slots := slot 0x02 } }
    let back := { p with spr := { p.spr with slots := slot 0x22 } }
    let none := { p with spr := Ppu.reset.spr }
    p.renderingEnabled = true ∧
      (at_ front, at_ back, at_ (clear back), at_ none, at_ (clear none)) = (0x22, 0x11, 0x22, 0x11, 0x0F) := by
  decide +kernel

/-- V63.3: id 2, four banks, 0x06 selects bank 2. -/
theorem test_low_switch :
    let c := { Cartridge.reset with
      mapper := .lowSwitch
      prgBanks := 4
      prg := [(0, 0xA0), (0x4000, 0xA1), (0x8000, 0xA2), (0xC000, 0xA3)] }
    let d := writeBankSelect Params.default 9 c 0xFFFF 0x06
    (readProgram Params.default d 0x8000, readProgram Params.default d 0xC000) = (0xA2, 0xA3) := by decide +kernel

/-- V63.15: the second write of INC 0x8000 is ignored by id 1. -/
theorem test_serial_rmw :
    let s := machine 0 0 0 0xFD 0x24 [0x10] [(0xC000, [0xEE, 0x00, 0x80])]
    after (setPc 0xC000 { s with cart := { s.cart with mapper := .shiftRegister } })
      (fun t => (t.cart.shift, t.cart.shiftCount)) = some (0, 1) := by decide +kernel

/-- P9: a write to the data port while rendering is active is refused. -/
theorem test_rendering_refuses :
    refusal (withPpu (fun p => { p with mask := 0x18 }) (machine 0 0 0 0xFD 0x24 [0x8D, 0x07, 0x20] [])) =
      some .vramAccessDuringRendering := by decide +kernel

/-! ### Witnesses: the hypotheses of the statements can be met -/

/-- Whether an instruction answers a next state. -/
def completes (i : Instr) (s : State) : Bool :=
  match exec i s with
  | .next _ => true
  | .fault _ => false
  | .refused _ => false

theorem next_of_completes {i : Instr} {s : State} (h : completes i s = true) : ∃ t, exec i s = .next t := by
  unfold completes at h
  split at h
  · exact ⟨_, ‹_›⟩
  · cases h
  · cases h

/-- Whether a step answers a next state. -/
def steps (s : State) : Bool := (after s (fun _ => true)).getD false

theorem next_of_steps {s : State} (h : steps s = true) : ∃ t, step s = .next t := by
  unfold steps after at h
  split at h
  · exact ⟨_, ‹_›⟩
  · cases h
  · cases h

/-- Operand bytes 0x10 0x03 at the pc, and pointers into RAM in page zero. -/
def w : State := machine 0x41 2 3 0xFA 0x24 [0x10, 0x03] [(0x0010, [0x00, 0x02, 0xFF, 0x02]), (0x01FB, [0x21, 0x02, 0x80])]

/-- The same in the middle of a rendered line. -/
def wActive : State := withPpu (fun p => { p with mask := 0x18, scanline := 100, dot := 30 }) w

/-- The same at the start of vblank with rendering enabled and a data port as the absolute operand. -/
def wBlank : State :=
  withPpu (fun p => { p with mask := 0x18, scanline := 240, dot := 0 }) (machine 0x41 0 0 0xFD 0x24 [0x07, 0x20] [])

theorem witness_decode_of_encode : Instr.wf .ldaAbs = true ∧ [0x00, (0x02 : Byte)].length = Instr.operandLength .ldaAbs := by
  decide

theorem witness_encode_of_decode : decode [0xAD, 0x00, 0x02, 0xEA] = .ok ⟨.ldaAbs, [0x00, 0x02], [0xEA]⟩ := by decide

/-- A step runs a decoded instruction that asks for no DMA, one that asks for it, and one that is refused. -/
theorem witness_step_runs :
    [[0xEA], [0x8D, 0x14, 0x40], [0x02]].all (fun (code : List Byte) =>
      let s := machine 0x02 0 0 0xFD 0x24 code []
      s.refused.isNone && !s.intr.intDue && memByte s s.cpu.pc == code.head?) = true ∧
    after (machine 0 0 0 0xFD 0x24 [0xEA] []) (fun t => t.dmaReq) = some none ∧
    (match exec .staAbs (fetch (machine 0x02 0 0 0xFD 0x24 [0x8D, 0x14, 0x40] [])).2 with
      | .next t => t.dmaReq
      | .fault _ => none
      | .refused _ => none) = some 0x02 ∧
    refusal (machine 0 0 0 0xFD 0x24 [0x02] []) = some (.unassignedOpcode 0x02) := by decide +kernel

/-- A due interrupt with and without a latched NMI, in a rendered line and outside. -/
theorem witness_due_interrupt :
    [w, wActive].all (fun s =>
      let t := { s with intr := { s.intr with intDue := true } }
      t.intr.intDue && t.permits 7 [t.cpu.pc]) = true := by decide +kernel

/-- A latched NMI with the output disabled, and with the output enabled and the line high. -/
theorem witness_latched_nmi :
    let s := { w with intr := { w.intr with nmiLatched := true } }
    let high := withPpu (fun p => { p with vblank := true, ctrl := 0x80, scanline := 241 })
      { w with intr := { w.intr with nmiLatched := true, nmiLine := true } }
    (s.intr.nmiLatched = true ∧ s.ppu.nmiEnable = false) ∧
      (high.intr.nmiLatched = true ∧ high.ppu.nmiEnable = true ∧ high.ppu.vblank = true ∧ high.intr.nmiLine = true) ∧
      (enterInterrupt false high).intr.nmiLatched = false := by decide +kernel

/-- An instruction of every class answers a next state; so does a branch within a page, across one and not taken. -/
theorem witness_polls :
    [Instr.nop, .ldaImm, .ldaIndy, .staAbs, .incAbs, .jmpAbs, .jmpInd, .jsr, .rts, .pha, .php, .pla, .plp, .rti, .brk].all
      (fun i => completes i w) = true ∧
      completes .bne (setPc 0x80F1 (machine 0 0 0 0xFD 0x24 [] [(0x80F1, [0x1E])])) = true ∧
      branchCycles true (setPc 0x80F1 (machine 0 0 0 0xFD 0x24 [] [(0x80F1, [0x1E])])) = 4 ∧
      branchCycles true w = 3 ∧ branchCycles false w = 2 := by decide +kernel

/-- Every form has its operand bytes and its operand in memory at `w`. -/
theorem witness_operands :
    [Form.imm, .zp, .zpx, .zpy, .abs, .absx, .absy, .indx, .indy].all (fun f =>
      (memByte w w.cpu.pc).isSome && (memByte w (w.cpu.pc + 1)).isSome && (memByte w (f.readTarget w).1).isSome) = true := by
  decide +kernel

/-- Every read-class row is permitted at `w`, and with rendering active; a data port is permitted in vblank. -/
theorem witness_read_rows :
    readRows.all (fun r => w.permits (r.form.lead + 1) (r.form.readAccesses w)) = true ∧
      readRows.all (fun r => wActive.permits (r.form.lead + 1) (r.form.readAccesses wActive)) = true ∧
      wBlank.permits 3 (Form.abs.readAccesses wBlank) = true ∧ (Form.abs.readTarget wBlank).1 = 0x2007 := by decide +kernel

/-- Every write-class row is permitted at `w` and writes to a memory. -/
theorem witness_write_rows :
    writeRows.all (fun r => w.permits (r.form.lead + 1) (r.form.writeAccesses w) &&
      decide ((r.form.writeTarget w).1.toNat < 0x8000) && (memByte w (r.form.writeTarget w).1).isSome) = true := by
  decide +kernel

/-- Every read-modify-write row is permitted at `w` and changes a byte of a memory. -/
theorem witness_rmw_rows :
    rmwRows.all (fun r => w.permits (r.form.lead + 3) (r.form.writeAccesses w) &&
      decide ((r.form.writeTarget w).1.toNat < 0x8000) && (memByte w (r.form.writeTarget w).1).isSome) = true := by
  decide +kernel

/-- Implied forms, stack instructions, BRK, RTI, JSR and RTS are permitted at `w`, whatever line is drawn. -/
theorem witness_implied :
    [w, wActive].all (fun s => s.permits 1 [s.cpu.pc] && s.permits 2 [s.cpu.pc] && s.permits 3 [s.cpu.pc] &&
      s.permits 5 [s.cpu.pc] && s.permits 6 [s.cpu.pc] && s.permits 5 [s.cpu.pc, s.cpu.pc + 1] &&
      s.permits 5 [s.cpu.pc, pulledAddress s] && (memByte s s.cpu.pc).isSome && (memByte s (s.cpu.pc + 1)).isSome) = true := by
  decide +kernel

/-- JMP indirect with its pointer inside a page, and at the end of one. -/
theorem witness_jumps :
    [w, machine 0 0 0 0xFD 0x24 [0xFF, 0x02] []].all (fun s =>
      s.permits 2 [s.cpu.pc, s.cpu.pc + 1] &&
        s.permits 4 [s.cpu.pc, s.cpu.pc + 1, jumpPointer s, jumpPointerHigh (jumpPointer s)] &&
        (memByte s (jumpPointer s)).isSome && (memByte s (jumpPointerHigh (jumpPointer s))).isSome) = true ∧
      jumpPointer w = 0x0310 ∧ jumpPointerHigh 0x0310 = 0x0311 ∧ jumpPointerHigh 0x02FF = 0x0200 := by decide +kernel

/-- Every branch is permitted at `w`; some are taken there and some are not. -/
theorem witness_branches :
    w.permits 3 (branchAccesses w) = true ∧ branchRows.countP (fun r => r.taken w) = 4 ∧
      (memByte w w.cpu.pc).isSome = true := by decide +kernel

theorem witness_unassigned :
    let s := machine 0 0 0 0xFD 0x24 [0xFF] []
    s.refused = none ∧ 0xFF ∈ unassignedBytes ∧ s.intr.intDue = false ∧ memByte s s.cpu.pc = some 0xFF := by
  decide +kernel

theorem witness_refusal_is_final :
    (refuse (.unassignedOpcode 0x02) w).refused = some (.unassignedOpcode 0x02) ∧
      ∃ t, step (machine 0 0 0 0xFD 0x24 [0xEA] []) = .next t :=
  ⟨by decide +kernel, next_of_steps (by decide +kernel)⟩

/-- NOP is in no list of writers and does not store. -/
theorem witness_writers : Instr.nop ∉ writesA ++ writesX ++ writesY ++ writesS ++ writesC ++ writesNZ ++ writesI ++ writesD ++
    writesV ++ storing ∧ ∃ t, exec .nop w = .next t :=
  ⟨by decide, next_of_completes (by decide +kernel)⟩

/-- STA completes with its address at the edges of every clause of the store frame. -/
theorem witness_stores :
    [(0xFF, 0x1F), (0x00, 0x20), (0x07, 0x20), (0xFF, 0x3F), (0x00, 0x40), (0x14, 0x40), (0x16, 0x40), (0x00, 0x60),
      (0xFF, 0x7F), (0x00, 0x80), (0xFF, 0xFF)].all (fun (b : Byte × Byte) =>
        let s := machine 0x5A 0 0 0xFD 0x24 [b.1, b.2] []
        completes .staAbs s && (Form.abs.writeTarget s).1 == word b.2 b.1) = true := by decide +kernel

theorem witness_pushes :
    [Instr.pha, .php, .jsr, .brk].all (fun i => completes i w) = true := by decide +kernel

/-- A step from a state that meets the invariant answers a next state. -/
theorem witness_step_keeps :
    (machine 0 0 0 0xFD 0x24 [0xEA] []).inv = true ∧ ∃ t, step (machine 0 0 0 0xFD 0x24 [0xEA] []) = .next t :=
  ⟨by decide +kernel, next_of_steps (by decide +kernel)⟩

/-- Every official instruction answers a next state at `w`. -/
theorem witness_cycle_counts :
    ((readRows ++ writeRows ++ rmwRows).map Row.instr ++ branchRows.map BranchRow.instr ++ fixedCycles.map Prod.fst).all
      (fun i => completes i w) = true := by decide +kernel

/-- The edges of the routing's ranges. -/
theorem test_routing_edges :
    [0x1FFF, 0x6000, 0x7FFF, 0x8000, 0xFFFF].all (fun (a : Addr) => (memByte w a).isSome) = true ∧
      [0x2000, 0x3FFF, 0x4000, 0x4014, 0x4018, 0x5FFF].all (fun (a : Addr) => (memByte w a).isNone) = true ∧
      (routeWrite 0x4014 7 w).dmaReq = some 7 ∧ (routeWrite 0x4013 7 w).audio.events = [.write 0x4013 7 7] ∧
      (routeWrite 0x4018 7 w).ram = w.ram ∧ (routeRead 0x1810 w).1 = 0x00 := by decide +kernel

/-- The edges of the two memories below 0x8000, and a mirror. -/
theorem witness_read_after_write :
    [0x0000, 0x1FFF, 0x6000, 0x7FFF].all (fun (a : Addr) => decide (a.toNat < 0x8000) && (memByte w a).isSome) = true ∧
      sameCell 0x0000 0x1800 = true ∧ sameCell 0x0000 0x0801 = false ∧ sameCell 0x6000 0x7000 = false := by decide +kernel

/-- The three dots of R477 and R478. -/
theorem test_frame_dots :
    let at_ := fun line => ppuTick (withPpu (fun p => { p with scanline := line, dot := 0, ctrl := 0x80 }) State.reset)
    ((at_ 241).ppu.vblank, (at_ 241).intr.nmiLatched, (at_ 240).ppu.frameComplete, (at_ 240).ppu.vblank) =
      (true, true, true, false) ∧
      (ppuTick (withPpu (fun p => { p with vblank := true, sprite0Hit := true, dot := 0 }) State.reset)).ppu.vblank = false := by
  decide +kernel

/-- Register writes: no warm-up, a warm-up that has just ended, one that has not, a clear toggle, rendering inactive. -/
theorem witness_register_writes :
    w.cfg.ppuWarmupCycles ≤ w.totalCycles ∧
      ({ w with cfg := { w.cfg with ppuWarmupCycles := 7 } } : State).cfg.ppuWarmupCycles ≤ w.totalCycles ∧
      w.totalCycles < ({ w with cfg := { w.cfg with ppuWarmupCycles := 8 } } : State).cfg.ppuWarmupCycles ∧
      w.ppu.scroll.w = false ∧ w.ppu.renderingActive = false ∧ wBlank.ppu.renderingActive = false := by decide +kernel

/-- R464 and R466-R468: the mask before and after the warm-up's last cycle, the OAM address during it, and the NMI that the
control register raises inside vblank. -/
theorem test_register_writes :
    let warm := fun n => { w with cfg := { w.cfg with ppuWarmupCycles := n } }
    let inside := withPpu (fun p => { p with vblank := true, scanline := 250 }) w
    ((ppuWrite 1 0x1E (warm 7)).ppu.mask, (ppuWrite 1 0x1E (warm 8)).ppu.mask, (ppuWrite 1 0x1E (warm 8)).ppu.ioLatch,
      (ppuWrite 3 0x20 (warm 8)).ppu.oamaddr) = (0x1E, 0x00, 0x1E, 0x20) ∧
      ((ppuWrite 0 0x83 inside).intr.nmiLatched, (ppuWrite 0 0x83 inside).ppu.scroll.t) = (true, 0x0C00) := by decide +kernel

/-- The data port at the last address under the palette and at the palette's first, graphics memory ROM and RAM. -/
theorem test_data_port_edges :
    let under := setScroll (fun k => { k with v := 0x3EFF }) w
    let pal := setScroll (fun k => { k with v := 0x3F00 }) w
    let ram := setScroll (fun k => { k with v := 0x1FFF }) { w with cart := { w.cart with chrBanks := 0 } }
    (ppuWrite 7 0x9A under).ppu.ciram = [(0x6FF, 0x9A)] ∧ (ppuWrite 7 0x9A pal).ppu.palette = [(0, 0x1A)] ∧
      (ppuWrite 7 0x9A ram).cart.chrRam = [(0x1FFF, 0x9A)] := by decide +kernel

theorem witness_palette :
    0x3F00 ≤ (0x3F00 : PAddr).toNat ∧ 0x3F00 ≤ (0x3FFF : PAddr).toNat ∧ palidx 0x3F10 = palidx 0x3F00 ∧
      palidx 0x3F11 ≠ palidx 0x3F01 := by decide

/-- Both sides of every condition of the refusals. -/
theorem witness_data_ports_refuse :
    wActive.refused = none ∧ wActive.ppu.renderingActive = true ∧
      (routeRead 0x2004 wActive).2.refused = some .oamAccessDuringRendering ∧
      (routeWrite 0x3FFF 0 wActive).refused = some .vramAccessDuringRendering ∧
      (routeRead 0x2002 wActive).2.refused = none ∧ (routeRead 0x2007 wBlank).2.refused = none := by decide +kernel

theorem witness_decay : (refreshLatch 0x5A w).ppu.decayTimer = 7777 := by decide +kernel

/-- Positions inside the frame; the odd-frame dot with rendering enabled, in both parities, and the wrap. -/
theorem test_dot_counter :
    let at_ := fun dot odd => ppuTick (withPpu (fun p => { p with mask := 0x18, dot := dot, oddFrame := odd }) State.reset)
    (w.ppu.renderingEnabled = false ∧ w.ppu.scanline ≤ 261 ∧ w.ppu.dot ≤ 340) ∧
      ((at_ 338 true).ppu.dot, (at_ 338 false).ppu.dot, (at_ 340 false).ppu.scanline, (at_ 340 false).ppu.oddFrame) =
        (340, 339, 0, true) ∧
      ((at_ 12 true).ppu.dot, (at_ 12 true).ppu.scanline, (at_ 12 true).ppu.oddFrame) = (13, 261, true) ∧
      (ppuTick (withPpu (fun p => { p with dot := 340, oddFrame := true }) State.reset)).ppu.oddFrame = false ∧
      (ppuTick (withPpu (fun p => { p with scanline := 7, dot := 340 }) wActive)).ppu.scanline = 8 := by decide +kernel

/-- A line with sprites in range and the pre-render line; the backdrop at the first and the last visible dot. -/
theorem witness_lines :
    let p := { Ppu.reset with scanline := 16, oam := [(0, 0x0A), (4, 0x09), (8, 0x11)] }
    p.scanline ≠ 261 ∧ p.evaluateSprites.spr.count = 2 ∧ Ppu.reset.scanline = 261 ∧
      Ppu.reset.renderingEnabled = false ∧
      (({ Ppu.reset with scanline := 0, dot := 1, palette := [(0, 0x0F)] } : Ppu).executeDot Params.default
        Cartridge.reset).frame[0][0] = { colour := 0x0F, emphasis := 0 } ∧
      (({ Ppu.reset with scanline := 239, dot := 256, palette := [(0, 0x0F)] } : Ppu).executeDot Params.default
        Cartridge.reset).frame[239][255] = { colour := 0x0F, emphasis := 0 } := by decide +kernel

/-- V63.7-V63.9 and W7: the modes of id 1 at both windows, and the mirrored bank of id 0. -/
theorem test_bank_modes :
    let c := { Cartridge.reset with
      mapper := .shiftRegister
      prgBanks := 8
      prgReg := 5
      prg := (List.range 8).map (fun b => (0x4000 * b, BitVec.ofNat 8 (0xB0 + b))) }
    let reads := fun control => (readProgram Params.default { c with control := control } 0x8000,
      readProgram Params.default { c with control := control } 0xC000)
    (reads 0x0E, reads 0x0A, reads 0x02, reads 0x06) =
      ((0xB5, 0xB7), (0xB0, 0xB5), (0xB4, 0xB5), (0xB4, 0xB5)) ∧
      readProgram Params.default { Cartridge.reset with prgBanks := 1, prg := [(0, 0x5A)] } 0xC000 = 0x5A := by
  decide +kernel

/-- V63.5 and V63.13: graphics banks of id 3 and id 1. -/
theorem test_graphics_banks :
    let c := { Cartridge.reset with
      mapper := .graphicsSwitch
      chrBanks := 4
      chr := [(0, 0xC0), (0x2000, 0xC1), (0x4000, 0xC2), (0x6000, 0xC3)] }
    readGraphics (writeBankSelect Params.default 9 c 0x8000 0x07) 0 = 0xC3 ∧
      chrAddr { Cartridge.reset with mapper := .shiftRegister, chrBanks := 2, control := 0, chr0 := 3 } 0x1FFF = 0x3FFF := by
  decide +kernel

/-- R570 and R574: graphics RAM under id 1, with units of 4 KiB and of 8 KiB, under id 2, and graphics ROM. -/
theorem test_graphics_ram :
    let ram := fun m control => { Cartridge.reset with mapper := m, chrBanks := 0, control := control, chr0 := 5 }
    (writeGraphics (ram .shiftRegister 0x1C) 0x0003 0x5A).chrRam = [(0x1003, 0x5A)] ∧
      (writeGraphics (ram .shiftRegister 0x0C) 0x1003 0x5A).chrRam = [(0x1003, 0x5A)] ∧
      (writeGraphics (ram .lowSwitch 0x0C) 0x0003 0x5A).chrRam = [(0x0003, 0x5A)] ∧
      writeGraphics Cartridge.reset 0x0003 0x5A = Cartridge.reset := by decide +kernel

/-- A cartridge of id 1 whose last write is behind it. -/
def serialCart : Cartridge := { Cartridge.reset with mapper := .shiftRegister, lastWriteCycle := some 7 }

theorem witness_serial :
    serialCart.mapper = .shiftRegister ∧ serialCart.shiftCount = 0 ∧
      (∀ k, serialCart.lastWriteCycle = some k → k + 1 < 9) ∧ (9 + 1 < 14 ∧ 14 + 1 < 20 ∧ 20 + 1 < 31 ∧ 31 + 1 < 33) ∧
      (0x7F : Byte).getLsbD 7 = false ∧ (0x80 : Byte).getLsbD 7 = true ∧ Params.default.mmc1IgnoreConsecutive = true := by
  refine ⟨rfl, rfl, fun k h => ?_, by decide, by decide, by decide, rfl⟩
  cases h
  decide

/-- R566 and R567: 0x15 bit by bit, the fifth write at both ends of each of the four ranges; a write behind the third one
is ignored; a reset behind the second. -/
theorem test_serial_ranges :
    let put := fun n v a c => writeBankSelect Params.default n c a v
    let three := put 20 0x7F 0x9000 (put 14 0x00 0xFFFF (put 9 0x01 0x8000 serialCart))
    let five := fun a => put 33 0x01 a (put 31 0x00 0xC000 three)
    let regs := fun (c : Cartridge) => (c.control, c.chr0, c.chr1, c.prgReg, c.shiftCount)
    [0x8000, 0x9FFF].all (fun a => regs (five a) = (0x15, 0, 0, 0, 0)) = true ∧
      [0xA000, 0xBFFF].all (fun a => regs (five a) = (0x0C, 0x15, 0, 0, 0)) = true ∧
      [0xC000, 0xDFFF].all (fun a => regs (five a) = (0x0C, 0, 0x15, 0, 0)) = true ∧
      [0xE000, 0xFFFF].all (fun a => regs (five a) = (0x0C, 0, 0, 0x15, 0)) = true ∧
      put 21 0x80 0x8000 three = { three with lastWriteCycle := some 21 } ∧
      regs (put 22 0x80 0xE000 { three with control := 0x12 }) = (0x1E, 0, 0, 0, 0) := by decide +kernel

/-- V63.6, V63.10 and V63.11: the pages of the modes. -/
theorem test_mirroring :
    let one := fun control a => mirrorNametableAddress { Cartridge.reset with mapper := .shiftRegister, control := control } a
    (one 0x0E 0x2400, one 0x0E 0x2800, one 0x13 0x2400, one 0x13 0x2800, one 0x00 0x2C05, one 0x01 0x2005) =
      (0x400, 0x000, 0x000, 0x400, 0x005, 0x405) := by decide +kernel

/-- W8: the eighth and the ninth read after a strobe. -/
theorem test_controller :
    let k := strobeWrite 0x01 { w with pads := { w.pads with buttons0 := 0x01 } }
    let shifted := fun n => (fun s => (controllerRead0 s).2)^[n] k
    (k.pads.shift0, (shifted 1).pads.shift0 &&& 1, (shifted 7).pads.shift0 &&& 1, (shifted 8).pads.shift0) =
      (0x01, 0, 0, 0xFF) := by decide +kernel

theorem witness_dma : (0x1F : Byte).toNat < 0x20 ∧ w.refused = none ∧ w.calm 514 = true := by decide +kernel

/-- `run_for(3)` over NOPs runs two of them. -/
theorem witness_run_for :
    (match runFor 3 (machine 0 0 0 0xFD 0x24 [0xEA, 0xEA] []) with
      | .next t => some t.clock
      | .fault _ => none
      | .refused _ => none) = some 11 := by decide +kernel

/-- The host's questions: the placed instruction is what the first step after reset runs. -/
theorem test_with_fetch_word :
    registers (State.reset.withFetchWord 8 0xEA) = some ⟨0, 0, 0, 0xFD, 0x24, 0x0001, 2⟩ ∧
      registers (State.reset.withFetchWord 16 0x80A9) = some ⟨0x80, 0, 0, 0xFD, 0xA4, 0x0002, 2⟩ := by decide +kernel

/-- R621 and R404, with a reset vector of 0x9234: S 0xFD, I set, seven cycles and 21 dots gone. -/
theorem test_power_on :
    let t := powerOn { PowerOnInputs.blank with cart := { Cartridge.reset with prg := [(0x7FFC, 0x34), (0x7FFD, 0x92)] } }
    (t.cpu.pc, t.cpu.s, t.cpu.p.i, t.clock, t.ppu.scanline, t.ppu.dot) = (0x9234, 0xFD, true, 7, 261, 21) := by
  decide +kernel

/-- R571 and R575: power-on sets the mapper's registers whatever the given cartridge held. -/
theorem test_power_on_cartridge :
    let used := { serialCart with prgBank := 3, chrBank := 2, shift := 5, shiftCount := 2, control := 0, chr0 := 9, prgReg := 1 }
    (powerOn { PowerOnInputs.blank with cart := used }).cart = { Cartridge.reset with mapper := .shiftRegister } := by
  decide +kernel

/-- R414 and R641: `end_frame` moves the interrupt time into the rebased clock, a time already past to its zero. -/
theorem test_end_frame :
    let times := fun t => (endFrame { w with audio := { events := [], irqTime := t } }).audio.irqTime
    (w.clock, times (some 30), times (some 3), times none) = (7, some 23, some 0, none) := by decide +kernel

end Sys2Proof.Tests
end

section
/-!
PROOFS. The scope of a step: a refusal is final (O27), and no step changes what the host loaded (O32).
-/

namespace Sys2Proof.Machine

/-! ### The end of a step under a refusal mark -/

/-- `finish` answers the refusal that the state is marked with (R17). -/
theorem finish_marked {s : State} {r : Refusal} (h : s.refused = some r) : finish s = .refused r := by
  simp [finish, h]

/-- A marked state stays marked through an instruction's cycles, so every instruction answers its mark (R17). -/
theorem exec_marked {s : State} {r : Refusal} (h : s.refused = some r) (i : Instr) : exec i s = .refused r := by
  obtain ⟨u, hu, keeps⟩ := keptRefused.exec_run i s
  exact hu.trans (finish_marked (keeps r h))

theorem step_marked {s : State} {r : Refusal} (h : s.refused = some r) : step s = .refused r := by
  simp [step, h]

/-- What follows an instruction answers a next state only after a next state, and through `finish` (R180). -/
theorem afterInstr_eq_next {o : Host.Outcome State Fault Refusal} {t : State} :
    afterInstr o = .next t ↔ ∃ u, o = .next u ∧ finish (runDma u) = .next t := by
  cases o <;> simp [afterInstr]

/-- A step from an unmarked state is an interrupt dispatch or an instruction (R180). -/
theorem step_unmarked {s : State} (h : s.refused = none) : step s =
    if s.intr.intDue then finish (interruptDispatch (clearDue s))
    else afterInstr (exec (decodeOpcode (fetch s).1) (fetch s).2) := by
  simp [step, h]

/-- A step that answers a next state began unmarked: a mark would have been its answer (R17). -/
theorem unmarked_of_step {s t : State} (h : step s = .next t) : s.refused = none := by
  cases hr : s.refused with
  | none => rfl
  | some r => simp [step_marked hr] at h

/-- A step answers next states through `finish` alone, which lets no marked state pass (R17). -/
theorem step_leaves_no_mark {s t : State} (h : step s = .next t) : t.refused = none := by
  have ends : ∃ u, finish u = .next t := by
    rw [step_unmarked (unmarked_of_step h)] at h
    split_ifs at h
    · exact ⟨_, h⟩
    · obtain ⟨u, -, hu⟩ := afterInstr_eq_next.1 h
      exact ⟨_, hu⟩
  obtain ⟨u, hu⟩ := ends
  obtain ⟨unmarked, rfl⟩ := finish_next hu
  exact unmarked

/-- Settles O27: the mark is kept by every cycle and decides the end of an instruction and of a step. -/
theorem refusalIsFinal : Obligations.RefusalIsFinal :=
  ⟨fun _ _ h => ⟨exec_marked h, step_marked h⟩, fun _ _ h => ⟨unmarked_of_step h, step_leaves_no_mark h⟩⟩

/-! ### What the host loaded -/

/-- What keeps the cartridge and the parameters keeps the images and the cartridge's shape. -/
theorem State.sameImages.of_cart_eq {s t : State} (hcart : t.cart = s.cart) (hcfg : t.cfg = s.cfg) : s.sameImages t := by
  simp [State.sameImages, hcart, hcfg]

/-- Every part of an instruction keeps the images, the cartridge's shape and the parameters: only a write reaches the
cartridge, and only its RAM and its mapper's registers (R96). -/
theorem keptImages : Kept State.sameImages where
  refl := .refl
  trans := .trans
  rd := fun a s => .of_cart_eq (rd_cart a s) (rd_cfg a s)
  wr := wr_images
  regs := fun _ _ => .of_cart_eq rfl rfl
  poll := fun _ => .of_cart_eq rfl rfl
  clearLatch := fun _ => .of_cart_eq rfl rfl
  clearDue := fun _ => .of_cart_eq rfl rfl
  refuse := fun _ _ => .of_cart_eq (by simp) (by simp)

/-- Settles O32: what every part of an instruction keeps, with the DMA request and the ticks, every step keeps. -/
theorem imagesNeverChange : Obligations.ImagesNeverChange :=
  fun _ _ h => keptImages.step (fun _ => .of_cart_eq rfl rfl)
    (fun s => .of_cart_eq (tickCycle_cart s) (tickCycle_cfg s)) h

end Sys2Proof.Machine
end

section
/-!
PROOFS. The machine between two steps: the invariant at reset and through every step (O59, O60), and the two clocks
(O57).
-/

namespace Sys2Proof.Machine

/-- Settles O59: one fixed state, whose memories list nothing. -/
theorem resetInvariant : Obligations.ResetInvariant := by
  unfold Obligations.ResetInvariant
  decide

/-! ### The invariant through a step -/

/-- Every part of an instruction keeps the invariant. -/
theorem keptInv : Kept (fun s t => s.Inv → t.Inv) where
  refl := fun _ h => h
  trans := fun h k hs => k (h hs)
  rd := fun a _ h => h.rd a
  wr := fun a v _ h => h.wr a v
  regs := fun f _ h => h.mapRegs f
  poll := fun _ h => h.poll
  clearLatch := fun _ h => h.clearLatch
  clearDue := fun _ h => h.clearDue
  refuse := fun r _ h => h.refuse r

/-- Settles O60: what every part of an instruction keeps, with the DMA request and the ticks, every step keeps. -/
theorem stepKeepsInvariant : Obligations.StepKeepsInvariant := by
  intro s t hs h
  have keeps : s.Inv → t.Inv :=
    keptInv.step (fun _ h => h.of_rest rfl rfl rfl rfl rfl) (fun _ h => h.tickCycle) h
  exact State.inv_iff.2 (keeps (State.inv_iff.1 hs))

/-! ### The clocks -/

/-- What a step that answers a next state did (R180). -/
theorem step_cases {s t : State} (h : step s = .next t) : t = interruptDispatch (clearDue s) ∨
    ∃ u, exec (decodeOpcode (fetch s).1) (fetch s).2 = .next u ∧ t = runDma u := by
  rw [step_unmarked (unmarked_of_step h)] at h
  split_ifs at h
  · exact .inl (finish_next h).2
  · obtain ⟨u, hu, ht⟩ := afterInstr_eq_next.1 h
    exact .inr ⟨u, hu, (finish_next ht).2⟩

/-- Every part of an instruction moves both counters alike. -/
theorem keptApart : Kept (fun s t => ∃ n, Apart n s t) where
  refl := fun s => ⟨0, .refl s⟩
  trans := fun ⟨_, h⟩ ⟨_, k⟩ => ⟨_, h.trans k⟩
  rd := fun a s => ⟨1, .rd a s⟩
  wr := fun a v s => ⟨1, .wr a v s⟩
  regs := fun f s => ⟨0, (Apart.refl s).mapRegs f⟩
  poll := fun s => ⟨0, (Apart.refl s).poll⟩
  clearLatch := fun _ => ⟨0, rfl, rfl⟩
  clearDue := fun _ => ⟨0, rfl, rfl⟩
  refuse := fun _ _ => ⟨0, by simp [Apart]⟩

theorem interruptDispatch_apart (s : State) : Apart 7 s (interruptDispatch s) :=
  ((dummyFetch_apart s).trans (dummyFetch_apart _)).trans (enterInterrupt_apart false _)

/-- A step takes at least the cycle of its opcode fetch, or of the first dummy read of a dispatch (R180, R403). -/
theorem step_apart {s t : State} (h : step s = .next t) : ∃ n, Apart (1 + n) s t := by
  obtain rfl | ⟨u, hu, rfl⟩ := step_cases h
  · exact ⟨6, interruptDispatch_apart (clearDue s)⟩
  · have toEnd : ∃ n, Apart n (fetch s).2 (runDma u) :=
      keptApart.trans (keptApart.exec hu) (keptApart.runDma (fun _ => ⟨0, rfl, rfl⟩)
        (fun s => ⟨1, tickCycle_totalCycles s, tickCycle_clock s⟩) u)
    exact toEnd.imp fun _ k => (Apart.fetch s).trans k

/-- The interrupt time told in the rebased clock is the same moment (R414, R641). -/
theorem rebase_irqTime_due (clock n : Nat) (k : AudioPort) :
    (k.rebase clock).irqTime.any (· ≤ n) = k.irqTime.any (· ≤ clock + n) := by
  cases h : k.irqTime <;> simp [AudioPort.rebase, h, Nat.add_comm]

/-- Settles O57: a step takes at least one cycle, and every cycle counts in both. -/
theorem clocksMoveTogether : Obligations.ClocksMoveTogether := by
  refine fun s => ⟨rfl, fun n => rebase_irqTime_due s.clock n s.audio, fun t h => ?_⟩
  obtain ⟨n, total, clock⟩ := step_apart h
  omega

end Sys2Proof.Machine
end

section
/-!
PROOFS. The cycles of every official instruction (O33).
-/

namespace Sys2Proof.Machine

/-- A count that includes the opcode fetch, from the cycles behind the fetch. -/
theorem Apart.count {n : Nat} {s t : State} (h : Apart (n - 1) s t) (hn : 1 ≤ n) :
    t.totalCycles + 1 = s.totalCycles + n ∧ t.clock + 1 = s.clock + n := by
  obtain ⟨total, clock⟩ := h
  omega

theorem Form.readCycles_pos (f : Form) (s : State) : 1 ≤ f.readCycles s := by
  cases f <;> simp only [Form.readCycles] <;> omega

theorem branchCycles_pos (b : Bool) (s : State) : 1 ≤ branchCycles b s := by
  unfold branchCycles
  split_ifs <;> decide

theorem impliedOp_apart (op : Regs → Regs) (s : State) : Apart 1 s (impliedOp op s) :=
  (dummyFetch_apart (poll s)).mapRegs op

theorem pullByte_apart (s : State) : Apart 3 s (pullByte s).2 :=
  ((dummyFetch_apart s).trans (dummyStack_apart _)).incS.poll.trans (readStack_apart _)

/-- The return from an interrupt is four stack reads (R200). -/
theorem returnFromInterrupt_apart (s : State) : Apart 4 s (returnFromInterrupt s) := by
  refine Apart.setPc _ (Apart.trans (m := 3) (Apart.poll (Apart.incS ?_)) (readStack_apart _))
  refine Apart.trans (m := 2) (Apart.incS (Apart.setP _ ?_)) (readStack_apart _)
  exact (dummyStack_apart s).incS.trans (readStack_apart _)

/-- An instruction runs `n` cycles behind its opcode fetch and then finishes. -/
def Runs (i : Instr) (n : Nat) (s : State) : Prop := ∃ u, exec i s = finish u ∧ Apart n s u

theorem jmpAbs_runs (s : State) : Runs .jmpAbs 2 s :=
  ⟨_, rfl, ((Apart.fetch s).poll.trans (Apart.rd _ _)).setPc _⟩

theorem jmpInd_runs (s : State) : Runs .jmpInd 4 s :=
  ⟨_, rfl, ((((Apart.fetch s).trans (Apart.fetch _)).trans (Apart.rd _ _)).poll.trans (Apart.rd _ _)).setPc _⟩

theorem jsr_runs (s : State) : Runs .jsr 5 s :=
  ⟨_, rfl, (((((Apart.fetch s).trans (dummyStack_apart _)).trans (push_apart _ _)).trans (push_apart _ _)).poll.trans
    (Apart.rd _ _)).setPc _⟩

theorem rts_runs (s : State) : Runs .rts 5 s := by
  have pulled := (((dummyFetch_apart s).trans (dummyStack_apart _)).incS.trans (readStack_apart _)).incS.trans
    (readStack_apart _)
  exact ⟨_, rfl, (pulled.setPc _).poll.trans (Apart.fetch _)⟩

theorem rti_runs (s : State) : Runs .rti 5 s :=
  ⟨_, rfl, (dummyFetch_apart s).trans (returnFromInterrupt_apart _)⟩

theorem brk_runs (s : State) : Runs .brk 6 s := ⟨_, rfl, (Apart.fetch s).trans (enterInterrupt_apart true _)⟩

theorem pha_runs (s : State) : Runs .pha 2 s := ⟨_, rfl, (dummyFetch_apart s).poll.trans (push_apart _ _)⟩

theorem php_runs (s : State) : Runs .php 2 s := ⟨_, rfl, (dummyFetch_apart s).poll.trans (push_apart _ _)⟩

theorem pla_runs (s : State) : Runs .pla 3 s := ⟨_, rfl, (pullByte_apart s).mapRegs _⟩

theorem plp_runs (s : State) : Runs .plp 3 s := ⟨_, rfl, (pullByte_apart s).setP _⟩

/-- The instructions with a fixed count (R207). -/
theorem fixedCycles_runs {k : Instr × Nat} (h : k ∈ fixedCycles) (s : State) : Runs k.1 (k.2 - 1) s := by
  rcases List.mem_append.1 h with h | h
  · obtain ⟨i, hi, rfl⟩ := List.mem_map.1 h
    obtain ⟨op, he⟩ := exec_twoCycle hi
    exact ⟨_, he s, impliedOp_apart op s⟩
  · fin_cases h
    exacts [jmpAbs_runs s, jmpInd_runs s, jsr_runs s, rts_runs s, rti_runs s, brk_runs s, pha_runs s, php_runs s,
      pla_runs s, plp_runs s]

theorem fixedCycles_pos : ∀ k ∈ fixedCycles, 1 ≤ k.2 := by decide

/-- Settles O33: every class runs its cycles and finishes. -/
theorem cycleCounts : Obligations.CycleCounts := by
  intro s t
  refine ⟨fun r hr h => ?_, fun r hr h => ?_, fun r hr h => ?_, fun r hr h => ?_, fun k hk h => ?_⟩
  · obtain ⟨op, he⟩ := exec_readRow hr
    obtain ⟨-, rfl⟩ := finish_next (he s ▸ h)
    exact ((r.form.read_apart s).mapRegs _).count (r.form.readCycles_pos s)
  · obtain ⟨hf, g, he⟩ := exec_writeRow hr
    obtain ⟨-, rfl⟩ := finish_next (he s ▸ h)
    exact (writeAt_apart hf _ s).count (by have := r.form.writeCycles_ge; omega)
  · obtain ⟨hf, op, he⟩ := exec_rmwRow hr
    obtain ⟨-, rfl⟩ := finish_next (he s ▸ h)
    exact (modifyAt_apart hf op s).count (Nat.le_add_left 1 _)
  · obtain ⟨-, rfl⟩ := finish_next (exec_branchRow hr s ▸ h)
    exact (branch_apart _ s).count (branchCycles_pos _ s)
  · obtain ⟨u, hu, apart⟩ := fixedCycles_runs hk s
    obtain ⟨-, rfl⟩ := finish_next (hu ▸ h)
    exact apart.count (fixedCycles_pos k hk)

end Sys2Proof.Machine
end

section
/-!
PROOFS. The stack instructions: what a push leaves unchanged (O31), and what RTI pulls (O25).
-/

namespace Sys2Proof.Machine

/-! ### Frames of pushes -/

theorem State.stackFrame.trans {cs ds : List Addr} {s t u : State} (h : s.stackFrame cs t) (k : t.stackFrame ds u) :
    s.stackFrame (cs ++ ds) u := by
  refine ⟨SameButRam.trans h.1 k.1, fun b hb => ?_⟩
  rw [List.all_append, Bool.and_eq_true] at hb
  exact (k.2 b hb.2).trans (h.2 b hb.1)

/-- Reads stay inside a frame with no cell. -/
theorem State.stackFrame.of_same {s t : State} (h : s.sameButReads t) : s.stackFrame [] t :=
  ⟨SameButRam.of_same h, fun b _ => h.memByte b⟩

theorem State.stackFrame.then_same {cs : List Addr} {s t u : State} (h : s.stackFrame cs t) (k : t.sameButReads u) :
    s.stackFrame cs u := by
  simpa using h.trans (.of_same k)

/-- A push stores to the cell at the pointer alone (R16, R44). -/
theorem push_frame (v : Byte) (s : State) : s.stackFrame [stackCell s 0] (push v s) := by
  refine ⟨push_same v s, fun b hb => ?_⟩
  rw [memByte_push, if_neg (by simpa using hb)]

/-- A stack cell is named by the pointer alone. -/
theorem stackCell_congr {s t : State} (h : t.cpu.s = s.cpu.s) (k : Byte) : stackCell t k = stackCell s k := by
  simp [stackCell, h]

theorem poll_same (s : State) : s.sameButReads (poll s) := .refl s
theorem setPc_same (a : Addr) (s : State) : s.sameButReads (setPc a s) := .refl s

/-- PHA and PHP: a dummy read, the poll, and one push (R201). -/
theorem push_poll_dummyFetch_frame (v : Byte) (s : State) :
    s.stackFrame [stackCell s 0] (push v (poll (dummyFetch s))) := by
  have lead : s.stackFrame [] (poll (dummyFetch s)) := .of_same ((dummyFetch_same s).trans (poll_same _))
  rw [← stackCell_congr (s := s) (t := poll (dummyFetch s)) (by simp)]
  exact lead.trans (push_frame v _)

/-- Two pushes store to the cell at the pointer and the one under it. -/
theorem push_push_frame (u v : Byte) (s : State) :
    s.stackFrame [stackCell s 0, stackCell s (-1)] (push v (push u s)) := by
  have under : stackCell (push u s) 0 = stackCell s (-1) :=
    stackCell_shift (j := -1) (by simp [BitVec.sub_eq_add_neg]) 0
  rw [← under]
  exact (push_frame u s).trans (push_frame v _)

/-- JSR: the pushes behind the fetch of the target's low byte, then reads alone (R198). -/
theorem jsr_frame {s t : State} (h : exec .jsr s = .next t) :
    s.stackFrame [stackCell s 0, stackCell s (-1)] t := by
  obtain ⟨-, rfl⟩ := finish_next h
  have lead : s.stackFrame [] (dummyStack (fetch s).2) := .of_same ((fetch_same s).trans (dummyStack_same _))
  have pointer : (dummyStack (fetch s).2).cpu.s = s.cpu.s := by simp
  simp only [← stackCell_congr pointer]
  exact (lead.trans (push_push_frame _ _ _)).then_same
    ((poll_same _).trans ((ReadKeeps.rd _ _).same.trans (setPc_same _ _)))

/-- BRK: the padding byte is read, then the entry of an interrupt (R203). -/
theorem brk_frame {s t : State} (h : exec .brk s = .next t) :
    s.stackFrame [stackCell s 0, stackCell s (-1), stackCell s (-2)] t := by
  obtain ⟨-, rfl⟩ := finish_next h
  have pointer : (fetch s).2.cpu.s = s.cpu.s := by simp
  simp only [← stackCell_congr pointer]
  exact (State.stackFrame.of_same (fetch_same s)).trans (enterInterrupt_frame true _)

/-- Settles O31: the frames of the cycles, one after the other. -/
theorem pushesChangeTheirCells : Obligations.PushesChangeTheirCells := by
  refine fun s t => ⟨fun i hi h => ?_, jsr_frame, brk_frame⟩
  fin_cases hi <;> obtain ⟨-, rfl⟩ := finish_next h <;> exact push_poll_dummyFetch_frame _ s

/-! ### RTI -/

/-- A pull gives the byte of the next cell, counted from the pointer of an earlier state with the same memory (R44). -/
theorem readStack_incS_value {s t : State} {k : Byte} (hs : t.cpu.s = s.cpu.s + k)
    (hm : ∀ a, memByte t a = memByte s a) :
    (readStack (incS t)).1 = s.byteAt (stackCell s (k + 1)) :=
  readStack_value (by simp [hs, BitVec.add_assoc]) (by simpa using hm)

/-- The return from an interrupt, on the register file: P, then the pc pulled, S up by three (R200, R373). -/
theorem returnFromInterrupt_cpu (s : State) : (returnFromInterrupt s).cpu = { s.cpu with
    s := s.cpu.s + 3
    pc := word (s.byteAt (stackCell s 3)) (s.byteAt (stackCell s 2))
    p := pulledImage (s.byteAt (stackCell s 1)) } := by
  have image : (readStack (incS (dummyStack s))).1 = s.byteAt (stackCell s 1) :=
    readStack_incS_value (k := 0) (by simp) (by simp)
  obtain ⟨t, ht⟩ : ∃ t, t = setP (pulledImage (s.byteAt (stackCell s 1))) (readStack (incS (dummyStack s))).2 :=
    ⟨_, rfl⟩
  have low : (readStack (incS t)).1 = s.byteAt (stackCell s 2) :=
    readStack_incS_value (k := 1) (by simp [ht]) (by simp [ht])
  have high : (readStack (poll (incS (readStack (incS t)).2))).1 = s.byteAt (stackCell s 3) :=
    readStack_value (k := 3) (by simp [ht, BitVec.add_assoc]) (by simp [ht])
  unfold returnFromInterrupt
  dsimp only
  rw [image, ← ht, low, high]
  simp [ht, BitVec.add_assoc]

theorem returnFromInterrupt_permits {n : Nat} {as : List Addr} {s : State} (h : s.permits (n + 4) as = true) :
    (returnFromInterrupt s).permits n as = true := by
  unfold returnFromInterrupt
  dsimp only
  rw [permits_setPc]
  refine readStack_permits ?_
  rw [permits_poll, permits_incS]
  refine readStack_permits ?_
  rw [permits_incS, permits_setP]
  refine readStack_permits ?_
  rw [permits_incS]
  exact dummyStack_permits h

/-- RTI on the register file: its dummy read leaves what the return pulls. -/
theorem rti_cpu (s : State) : (returnFromInterrupt (dummyFetch s)).cpu = { s.cpu with
    s := s.cpu.s + 3
    pc := word (s.byteAt (stackCell s 3)) (s.byteAt (stackCell s 2))
    p := pulledImage (s.byteAt (stackCell s 1)) } := by
  simp [returnFromInterrupt_cpu, State.byteAt, stackCell]

/-- Settles O25: where its accesses are permitted, RTI ends in the register file that its pulls give. -/
theorem returnFromInterruptResult : Obligations.ReturnFromInterruptResult := by
  refine fun s => ⟨by decide, fun h => ⟨_, finish_of_none (s := returnFromInterrupt (dummyFetch s)) ?_, ?_, rti_cpu s⟩⟩
  · exact permits_refused (returnFromInterrupt_permits (n := 0) (dummyFetch_permits (by simp) h))
  · exact (Apart.count (n := 6) ((dummyFetch_apart s).trans (returnFromInterrupt_apart _)) (by decide)).1

end Sys2Proof.Machine
end

section
/-!
PROOFS. Which instructions write each register and flag (O28): what every operation on the register file changes, and
the instructions that call it.
-/

namespace Sys2Proof.Machine

/-! ### The parts of the register file -/

/-- The parts of the register file that have a list of writers of their own (R41-R44, R48-R53). -/
inductive RegPart where
  | a
  | x
  | y
  | s
  | c
  | nz
  | i
  | d
  | v

/-- The instructions that the rules name as the writers of a part. -/
def RegPart.writers : RegPart → List Instr
  | .a => writesA
  | .x => writesX
  | .y => writesY
  | .s => writesS
  | .c => writesC
  | .nz => writesNZ
  | .i => writesI
  | .d => writesD
  | .v => writesV

/-- Two register files agree on a part. -/
def RegPart.Same (r k : Regs) : RegPart → Prop
  | .a => k.a = r.a
  | .x => k.x = r.x
  | .y => k.y = r.y
  | .s => k.s = r.s
  | .c => k.p.c = r.p.c
  | .nz => k.p.z = r.p.z ∧ k.p.n = r.p.n
  | .i => k.p.i = r.p.i
  | .d => k.p.d = r.p.d
  | .v => k.p.v = r.p.v

/-- Of the parts with writers only those of a list change. -/
def Regs.ChangesOnly (ps : List RegPart) (r k : Regs) : Prop := ∀ q, q ∉ ps → q.Same r k

/-- The parts that a pulled image of P sets (R47). -/
def flagParts : List RegPart := [.c, .nz, .i, .d, .v]

/-! ### The operations on the register file -/

theorem loadA_changes (m : Byte) (r : Regs) : r.ChangesOnly [.a, .nz] (loadA m r) := by
  intro q; cases q <;> simp [RegPart.Same, loadA, setNZ]

theorem loadX_changes (m : Byte) (r : Regs) : r.ChangesOnly [.x, .nz] (loadX m r) := by
  intro q; cases q <;> simp [RegPart.Same, loadX, setNZ]

theorem loadY_changes (m : Byte) (r : Regs) : r.ChangesOnly [.y, .nz] (loadY m r) := by
  intro q; cases q <;> simp [RegPart.Same, loadY, setNZ]

theorem addWithCarry_changes (m : Byte) (r : Regs) : r.ChangesOnly [.a, .c, .nz, .v] (addWithCarry m r) := by
  intro q; cases q <;> simp [RegPart.Same, addWithCarry, addFlags, setNZ]

theorem compareFlags_changes (v m : Byte) (r : Regs) :
    r.ChangesOnly [.c, .nz] { r with p := compareFlags v m r.p } := by
  intro q; cases q <;> simp [RegPart.Same, compareFlags]

theorem testBits_changes (m : Byte) (r : Regs) : r.ChangesOnly [.nz, .v] (testBits m r) := by
  intro q; cases q <;> simp [RegPart.Same, testBits, bitFlags]

theorem incByte_changes (m : Byte) (r : Regs) : r.ChangesOnly [.nz] { r with p := (incByte m r.p).2 } := by
  intro q; cases q <;> simp [RegPart.Same, incByte, setNZ]

theorem decByte_changes (m : Byte) (r : Regs) : r.ChangesOnly [.nz] { r with p := (decByte m r.p).2 } := by
  intro q; cases q <;> simp [RegPart.Same, decByte, setNZ]

theorem aslByte_changes (m : Byte) (r : Regs) : r.ChangesOnly [.c, .nz] { r with p := (aslByte m r.p).2 } := by
  intro q; cases q <;> simp [RegPart.Same, aslByte, setNZ]

theorem lsrByte_changes (m : Byte) (r : Regs) : r.ChangesOnly [.c, .nz] { r with p := (lsrByte m r.p).2 } := by
  intro q; cases q <;> simp [RegPart.Same, lsrByte, setNZ]

theorem rolByte_changes (m : Byte) (r : Regs) : r.ChangesOnly [.c, .nz] { r with p := (rolByte m r.p).2 } := by
  intro q; cases q <;> simp [RegPart.Same, rolByte, setNZ]

theorem rorByte_changes (m : Byte) (r : Regs) : r.ChangesOnly [.c, .nz] { r with p := (rorByte m r.p).2 } := by
  intro q; cases q <;> simp [RegPart.Same, rorByte, setNZ]

theorem setS_changes (v : Byte) (r : Regs) : r.ChangesOnly [.s] { r with s := v } := by
  intro q; cases q <;> simp [RegPart.Same]

theorem setC_changes (b : Bool) (r : Regs) : r.ChangesOnly [.c] { r with p := { r.p with c := b } } := by
  intro q; cases q <;> simp [RegPart.Same]

theorem setI_changes (b : Bool) (r : Regs) : r.ChangesOnly [.i] { r with p := { r.p with i := b } } := by
  intro q; cases q <;> simp [RegPart.Same]

theorem setD_changes (b : Bool) (r : Regs) : r.ChangesOnly [.d] { r with p := { r.p with d := b } } := by
  intro q; cases q <;> simp [RegPart.Same]

theorem setV_changes (b : Bool) (r : Regs) : r.ChangesOnly [.v] { r with p := { r.p with v := b } } := by
  intro q; cases q <;> simp [RegPart.Same]

/-- The accumulator form of a shift changes A and the flags of the shift. -/
theorem modifyA_changes {f : Byte → Flags → Result} {ps : List RegPart}
    (hf : ∀ (m : Byte) (r : Regs), r.ChangesOnly ps { r with p := (f m r.p).2 }) (r : Regs) :
    r.ChangesOnly (.a :: ps) (modifyA f r) := by
  intro q hq
  obtain ⟨notA, rest⟩ := not_or.1 (mt List.mem_cons.2 hq)
  have same := hf r.a r q rest
  cases q
  · exact absurd rfl notA
  all_goals exact same

/-- What an operation changes behind cycles that moved the pc. -/
theorem Regs.ChangesOnly.of_pc {ps : List RegPart} {r k : Regs} {a : Addr}
    (h : Regs.ChangesOnly ps { r with pc := a } k) : r.ChangesOnly ps k := by
  intro q hq
  have same := h q hq
  cases q <;> exact same

theorem Regs.ChangesOnly.refl (r : Regs) : r.ChangesOnly [] r := by
  intro q _; cases q <;> simp [RegPart.Same]

/-- The pc has no list of writers: moving it changes no part (R45). -/
theorem pc_changes (a : Addr) (r : Regs) : r.ChangesOnly [] { r with pc := a } := (Regs.ChangesOnly.refl _).of_pc

/-! ### The instructions -/

/-- An instruction runs its cycles, keeps every part of the register file that it does not write, and finishes. -/
def KeepsUnwritten (i : Instr) (s : State) : Prop :=
  ∃ u, exec i s = finish u ∧ ∀ q : RegPart, i ∉ q.writers → q.Same s.cpu u.cpu

theorem keepsUnwritten_of {i : Instr} {s u : State} {ps : List RegPart} (he : exec i s = finish u)
    (hc : s.cpu.ChangesOnly ps u.cpu) (hw : ∀ q ∈ ps, i ∈ q.writers) : KeepsUnwritten i s :=
  ⟨u, he, fun q hq => hc q fun hp => hq (hw q hp)⟩

/-- The rows of one mnemonic, the operation that they share and the parts that it changes. -/
structure OpRows (Op : Type) where
  rows : List Row
  op : Op
  parts : List RegPart

/-- The mnemonics of the read class. -/
def readOps : List (OpRows (Byte → Regs → Regs)) :=
  [⟨ldaRows, loadA, [.a, .nz]⟩, ⟨ldxRows, loadX, [.x, .nz]⟩, ⟨ldyRows, loadY, [.y, .nz]⟩,
   ⟨adcRows, addWithCarry, [.a, .c, .nz, .v]⟩, ⟨sbcRows, subtractWithBorrow, [.a, .c, .nz, .v]⟩,
   ⟨andRows, andA, [.a, .nz]⟩, ⟨oraRows, orA, [.a, .nz]⟩, ⟨eorRows, xorA, [.a, .nz]⟩, ⟨cmpRows, compareA, [.c, .nz]⟩,
   ⟨cpxRows, compareX, [.c, .nz]⟩, ⟨cpyRows, compareY, [.c, .nz]⟩, ⟨bitRows, testBits, [.nz, .v]⟩]

theorem mem_readOps {r : Row} (h : r ∈ readRows) : ∃ g ∈ readOps, r ∈ g.rows := List.mem_flatMap.1 h

theorem exec_readOps : ∀ g ∈ readOps, ∀ r ∈ g.rows, ∀ s, exec r.instr s = finish (readOp g.op (r.form.read s)) := by
  intro g hg
  fin_cases hg <;> intro r hr <;> fin_cases hr <;> exact fun _ => rfl

theorem readOps_changes : ∀ g ∈ readOps, ∀ (m : Byte) (r : Regs), r.ChangesOnly g.parts (g.op m r) := by
  intro g hg
  fin_cases hg
  exacts [loadA_changes, loadX_changes, loadY_changes, addWithCarry_changes, fun m => addWithCarry_changes (m ^^^ 0xFF),
    fun m r => loadA_changes (r.a &&& m) r, fun m r => loadA_changes (r.a ||| m) r,
    fun m r => loadA_changes (r.a ^^^ m) r, fun m r => compareFlags_changes r.a m r,
    fun m r => compareFlags_changes r.x m r, fun m r => compareFlags_changes r.y m r, testBits_changes]

theorem readOps_writers : ∀ g ∈ readOps, ∀ r ∈ g.rows, ∀ q ∈ g.parts, r.instr ∈ q.writers := by decide +kernel

/-- The mnemonics of the read-modify-write class. -/
def modifyOps : List (OpRows (Byte → Flags → Result)) :=
  [⟨incRows, incByte, [.nz]⟩, ⟨decRows, decByte, [.nz]⟩, ⟨aslRows, aslByte, [.c, .nz]⟩, ⟨lsrRows, lsrByte, [.c, .nz]⟩,
   ⟨rolRows, rolByte, [.c, .nz]⟩, ⟨rorRows, rorByte, [.c, .nz]⟩]

theorem mem_modifyOps {r : Row} (h : r ∈ rmwRows) : ∃ g ∈ modifyOps, r ∈ g.rows := List.mem_flatMap.1 h

theorem exec_modifyOps : ∀ g ∈ modifyOps, ∀ r ∈ g.rows, ∀ s,
    exec r.instr s = finish (modifyAt g.op (r.form.writeTarget s)) := by
  intro g hg
  fin_cases hg <;> intro r hr <;> fin_cases hr <;> exact fun _ => rfl

theorem modifyOps_changes : ∀ g ∈ modifyOps, ∀ (m : Byte) (r : Regs),
    r.ChangesOnly g.parts { r with p := (g.op m r.p).2 } := by
  intro g hg
  fin_cases hg
  exacts [incByte_changes, decByte_changes, aslByte_changes, lsrByte_changes, rolByte_changes, rorByte_changes]

theorem modifyOps_writers : ∀ g ∈ modifyOps, ∀ r ∈ g.rows, ∀ q ∈ g.parts, r.instr ∈ q.writers := by decide +kernel

/-- A two-cycle instruction, its operation and the parts that it changes. -/
structure ImpliedInstr where
  instr : Instr
  op : Regs → Regs
  parts : List RegPart

/-- A flag instruction. -/
def flagInstr (i : Instr) (f : Flags → Flags) (q : RegPart) : ImpliedInstr := ⟨i, fun r => { r with p := f r.p }, [q]⟩

/-- The two-cycle instructions. -/
def impliedInstrs : List ImpliedInstr :=
  [⟨.tax, fun r => loadX r.a r, [.x, .nz]⟩, ⟨.tay, fun r => loadY r.a r, [.y, .nz]⟩,
   ⟨.txa, fun r => loadA r.x r, [.a, .nz]⟩, ⟨.tya, fun r => loadA r.y r, [.a, .nz]⟩,
   ⟨.tsx, fun r => loadX r.s r, [.x, .nz]⟩, ⟨.txs, fun r => { r with s := r.x }, [.s]⟩,
   ⟨.inx, fun r => loadX (r.x + 1) r, [.x, .nz]⟩, ⟨.iny, fun r => loadY (r.y + 1) r, [.y, .nz]⟩,
   ⟨.dex, fun r => loadX (r.x - 1) r, [.x, .nz]⟩, ⟨.dey, fun r => loadY (r.y - 1) r, [.y, .nz]⟩,
   ⟨.aslAcc, modifyA aslByte, [.a, .c, .nz]⟩, ⟨.lsrAcc, modifyA lsrByte, [.a, .c, .nz]⟩,
   ⟨.rolAcc, modifyA rolByte, [.a, .c, .nz]⟩, ⟨.rorAcc, modifyA rorByte, [.a, .c, .nz]⟩,
   flagInstr .clc (fun p => { p with c := false }) .c, flagInstr .sec (fun p => { p with c := true }) .c,
   flagInstr .cli (fun p => { p with i := false }) .i, flagInstr .sei (fun p => { p with i := true }) .i,
   flagInstr .cld (fun p => { p with d := false }) .d, flagInstr .sed (fun p => { p with d := true }) .d,
   flagInstr .clv (fun p => { p with v := false }) .v, ⟨.nop, id, []⟩]

theorem mem_impliedInstrs {i : Instr} (h : i ∈ twoCycleInstrs) : ∃ k ∈ impliedInstrs, k.instr = i := List.mem_map.1 h

theorem exec_impliedInstrs : ∀ k ∈ impliedInstrs, ∀ s, exec k.instr s = finish (impliedOp k.op s) := by
  intro k hk
  fin_cases hk <;> exact fun _ => rfl

theorem impliedInstrs_changes : ∀ k ∈ impliedInstrs, ∀ r : Regs, r.ChangesOnly k.parts (k.op r) := by
  intro k hk
  fin_cases hk
  exacts [fun r => loadX_changes r.a r, fun r => loadY_changes r.a r, fun r => loadA_changes r.x r,
    fun r => loadA_changes r.y r, fun r => loadX_changes r.s r, fun r => setS_changes r.x r,
    fun r => loadX_changes (r.x + 1) r, fun r => loadY_changes (r.y + 1) r, fun r => loadX_changes (r.x - 1) r,
    fun r => loadY_changes (r.y - 1) r, modifyA_changes aslByte_changes, modifyA_changes lsrByte_changes,
    modifyA_changes rolByte_changes, modifyA_changes rorByte_changes, setC_changes false, setC_changes true,
    setI_changes false, setI_changes true, setD_changes false, setD_changes true, setV_changes false,
    Regs.ChangesOnly.refl]

theorem impliedInstrs_writers : ∀ k ∈ impliedInstrs, ∀ q ∈ k.parts, k.instr ∈ q.writers := by decide +kernel

/-! ### Every instruction -/

theorem readRow_keepsUnwritten {r : Row} (h : r ∈ readRows) (s : State) : KeepsUnwritten r.instr s := by
  obtain ⟨g, hg, hr⟩ := mem_readOps h
  refine keepsUnwritten_of (exec_readOps g hg r hr s) ?_ (readOps_writers g hg r hr)
  rw [readOp, mapRegs_cpu, Form.read_cpu]
  exact (readOps_changes g hg _ _).of_pc

theorem writeRow_keepsUnwritten {r : Row} (h : r ∈ writeRows) (s : State) : KeepsUnwritten r.instr s := by
  obtain ⟨hf, g, he⟩ := exec_writeRow h
  refine keepsUnwritten_of (he s) (ps := []) ?_ (by simp)
  rw [writeAt_cpu hf]
  exact pc_changes _ _

theorem rmwRow_keepsUnwritten {r : Row} (h : r ∈ rmwRows) (s : State) : KeepsUnwritten r.instr s := by
  obtain ⟨g, hg, hr⟩ := mem_modifyOps h
  refine keepsUnwritten_of (exec_modifyOps g hg r hr s) ?_ (modifyOps_writers g hg r hr)
  rw [modifyAt_cpu (exec_rmwRow h).1]
  exact (modifyOps_changes g hg _ { s.cpu with pc := r.form.pcAfter s }).of_pc

/-- A branch moves the pc and nothing else of the register file (R194). -/
theorem branch_cpu (b : Bool) (s : State) : (branch b s).cpu = { s.cpu with pc := (branch b s).cpu.pc } := by
  unfold branch
  dsimp only
  split_ifs <;> simp

theorem branchRow_keepsUnwritten {r : BranchRow} (h : r ∈ branchRows) (s : State) : KeepsUnwritten r.instr s := by
  refine keepsUnwritten_of (exec_branchRow h s) (ps := []) ?_ (by simp)
  rw [branch_cpu]
  exact pc_changes _ _

theorem twoCycle_keepsUnwritten {i : Instr} (h : i ∈ twoCycleInstrs) (s : State) : KeepsUnwritten i s := by
  obtain ⟨k, hk, rfl⟩ := mem_impliedInstrs h
  refine keepsUnwritten_of (exec_impliedInstrs k hk s) ?_ (impliedInstrs_writers k hk)
  simpa [impliedOp] using impliedInstrs_changes k hk s.cpu

/-- A pull moves the pointer up by one (R202). -/
theorem pullByte_cpu (s : State) : (pullByte s).2.cpu = { s.cpu with s := s.cpu.s + 1 } := by
  simp [pullByte]

theorem stack_changes (v : Byte) (a : Addr) (r : Regs) : r.ChangesOnly [.s] { r with s := v, pc := a } := by
  intro q; cases q <;> simp [RegPart.Same]

theorem pla_changes (m : Byte) (r : Regs) : r.ChangesOnly [.s, .a, .nz] (loadA m { r with s := r.s + 1 }) := by
  intro q; cases q <;> simp [RegPart.Same, loadA, setNZ]

theorem pulledFlags_changes (v m : Byte) (a : Addr) (r : Regs) :
    r.ChangesOnly (.s :: flagParts) { r with s := v, pc := a, p := pulledImage m } := by
  intro q; cases q <;> simp [RegPart.Same, flagParts]

theorem entered_changes (v : Byte) (a : Addr) (r : Regs) :
    r.ChangesOnly [.s, .i] { r with s := v, p := { r.p with i := true }, pc := a } := by
  intro q; cases q <;> simp [RegPart.Same]

theorem jump_keepsUnwritten {i : Instr} (h : i ∈ [Instr.jmpAbs, .jmpInd]) (s : State) : KeepsUnwritten i s := by
  fin_cases h <;> refine keepsUnwritten_of (ps := []) rfl ?_ (by simp) <;> simpa using pc_changes _ s.cpu

theorem stack_keepsUnwritten {i : Instr} (h : i ∈ [Instr.jsr, .rts, .pha, .php]) (s : State) : KeepsUnwritten i s := by
  fin_cases h <;> refine keepsUnwritten_of (ps := [.s]) rfl ?_ (by decide)
  · simpa using stack_changes _ _ s.cpu
  · simpa using stack_changes _ _ s.cpu
  · simpa using setS_changes _ s.cpu
  · simpa using setS_changes _ s.cpu

theorem pla_keepsUnwritten (s : State) : KeepsUnwritten .pla s := by
  refine keepsUnwritten_of (ps := [.s, .a, .nz]) rfl ?_ (by decide)
  rw [readOp, mapRegs_cpu, pullByte_cpu]
  exact pla_changes _ s.cpu

theorem plp_keepsUnwritten (s : State) : KeepsUnwritten .plp s := by
  refine keepsUnwritten_of (ps := .s :: flagParts) rfl ?_ (by decide)
  rw [setP_cpu, pullByte_cpu]
  exact pulledFlags_changes _ _ s.cpu.pc s.cpu

theorem rti_keepsUnwritten (s : State) : KeepsUnwritten .rti s := by
  refine keepsUnwritten_of (ps := .s :: flagParts) rfl ?_ (by decide)
  rw [rti_cpu]
  exact pulledFlags_changes _ _ _ s.cpu

theorem brk_keepsUnwritten (s : State) : KeepsUnwritten .brk s := by
  refine keepsUnwritten_of (ps := [.s, .i]) rfl ?_ (by decide)
  rw [(enterInterrupt_entered true (fetch s).2).1, fetch_cpu]
  exact entered_changes _ _ s.cpu

theorem unassigned_keepsUnwritten (op : Byte) (s : State) : KeepsUnwritten (.unassigned op) s :=
  keepsUnwritten_of (u := refuse (.unassignedOpcode op) s) rfl (by simpa using Regs.ChangesOnly.refl s.cpu) (by simp)

/-- Every instruction keeps the parts of the register file that it does not write. -/
theorem keepsUnwritten (i : Instr) (s : State) : KeepsUnwritten i s := by
  rcases instr_kind i with ⟨r, h, rfl⟩ | ⟨r, h, rfl⟩ | ⟨r, h, rfl⟩ | ⟨r, h, rfl⟩ | h | h | ⟨op, rfl⟩
  · exact readRow_keepsUnwritten h s
  · exact writeRow_keepsUnwritten h s
  · exact rmwRow_keepsUnwritten h s
  · exact branchRow_keepsUnwritten h s
  · exact twoCycle_keepsUnwritten h s
  · fin_cases h
    exacts [jump_keepsUnwritten (by simp) s, jump_keepsUnwritten (by simp) s, stack_keepsUnwritten (by simp) s,
      stack_keepsUnwritten (by simp) s, stack_keepsUnwritten (by simp) s, stack_keepsUnwritten (by simp) s,
      pla_keepsUnwritten s, plp_keepsUnwritten s, brk_keepsUnwritten s, rti_keepsUnwritten s]
  · exact unassigned_keepsUnwritten op s

/-- Settles O28: an instruction's operation changes only parts of which the instruction is a writer. -/
theorem registersAndFlagsHaveTheirWriters : Obligations.RegistersAndFlagsHaveTheirWriters := by
  intro i s t h
  obtain ⟨u, hu, same⟩ := keepsUnwritten i s
  obtain ⟨-, rfl⟩ := finish_next (hu ▸ h)
  exact ⟨same .a, same .x, same .y, same .s, same .c, same .nz, same .i, same .d, same .v⟩

end Sys2Proof.Machine
end

section
/-!
PROOFS. The bus: a cycle ticks before it routes (O34), where reads and writes go (O35), and a byte of RAM reads back as
written (O36).
-/

namespace Sys2Proof.Machine

/-! ### The cycle -/

/-- Settles O34: the state that a cycle routes in is the one behind its ticks. -/
theorem busCycleTicksBeforeRouting : Obligations.BusCycleTicksBeforeRouting := by
  refine fun s a v => ⟨tickCycle s, rfl, rfl, rfl, rfl, rfl, (ReadKeeps.tickCycle s).same, rfl, ?_⟩
  dsimp only
  generalize hp : (ppuTick (ppuTick (ppuTick s))).ppu = p
  have decayed : (tickCycle s).ppu = doIf (s.cfg.decayUnit = .cpuCycle) Ppu.decayStep p := by rw [← hp]; rfl
  rw [decayed]
  by_cases counts : s.cfg.decayUnit = .cpuCycle
  · by_cases running : 0 < p.decayTimer
    · simp [doIf, counts, running, decayStep_eq]
    · simp [doIf, counts, running, Ppu.decayStep]
  · simp [doIf, counts]

/-! ### The mirrors -/

/-- Work RAM appears four times: the low 11 bits name the cell (R92). -/
theorem toNat_and_07FF (a : Addr) : (a &&& 0x07FF).toNat = a.toNat % 0x800 :=
  (BitVec.toNat_and ..).trans (Nat.and_two_pow_sub_one_eq_mod a.toNat 11)

/-- The PPU registers repeat every eight bytes (R93). -/
theorem toNat_and_7 (a : Addr) : (a &&& 7).toNat = a.toNat % 8 :=
  (BitVec.toNat_and ..).trans (Nat.and_two_pow_sub_one_eq_mod a.toNat 3)

/-! ### Where reads go -/

section
variable {a : Addr} (s : State)

theorem routeRead_workRam (h : a.toNat ≤ 0x1FFF) : routeRead a s = (readCell s.ram (a.toNat % 0x800), s) := by
  rw [routeRead, if_pos h]

theorem routeRead_register (h1 : 0x2000 ≤ a.toNat) (h2 : a.toNat ≤ 0x3FFF) :
    routeRead a s = ppuRead (a.toNat % 8) s := by
  rw [routeRead, if_neg (by omega), if_pos h2]

/-- No device answers below the audio status and between the controllers and the cartridge (R94, R95). -/
theorem routeRead_open (h : (0x4000 ≤ a.toNat ∧ a.toNat ≤ 0x4014) ∨ (0x4018 ≤ a.toNat ∧ a.toNat ≤ 0x5FFF)) :
    routeRead a s = (Config.cpuOpenBus, s) := by
  rw [routeRead, if_neg (by omega), if_neg (by omega), if_neg (by omega), if_neg (by omega), if_neg (by omega),
    if_pos (by omega)]

theorem routeRead_prgRam (h1 : 0x6000 ≤ a.toNat) (h2 : a.toNat ≤ 0x7FFF) :
    routeRead a s = (readPrgRam s.cart a, s) := by
  rw [routeRead, if_neg (by omega), if_neg (by omega), if_neg (by omega), if_neg (by omega), if_neg (by omega),
    if_neg (by omega), if_pos h2]

theorem routeRead_program (h : 0x8000 ≤ a.toNat) : routeRead a s = (readProgram s.cfg s.cart a, s) := by
  rw [routeRead, if_neg (by omega), if_neg (by omega), if_neg (by omega), if_neg (by omega), if_neg (by omega),
    if_neg (by omega), if_neg (by omega)]

end

/-! ### Where writes go -/

section
variable {a : Addr} (v : Byte) (s : State)

theorem routeWrite_workRam (h : a.toNat ≤ 0x1FFF) :
    routeWrite a v s = { s with ram := writeCell s.ram (a.toNat % 0x800) v } := by
  rw [routeWrite, if_pos h]

theorem routeWrite_register (h1 : 0x2000 ≤ a.toNat) (h2 : a.toNat ≤ 0x3FFF) :
    routeWrite a v s = ppuWrite (a.toNat % 8) v s := by
  rw [routeWrite, if_neg (by omega), if_pos h2]

/-- The audio unit takes the writes from 0x4000 to 0x4017, less the DMA trigger and the strobe (R94, R595). -/
theorem routeWrite_audio (h1 : 0x4000 ≤ a.toNat) (h2 : a.toNat ≤ 0x4017) (dma : a.toNat ≠ 0x4014)
    (strobe : a.toNat ≠ 0x4016) : routeWrite a v s = audioWrite a v s := by
  rw [routeWrite, if_neg (by omega), if_neg (by omega), if_neg dma, if_neg strobe, if_pos h2]

theorem routeWrite_open (h1 : 0x4018 ≤ a.toNat) (h2 : a.toNat ≤ 0x5FFF) : routeWrite a v s = s := by
  rw [routeWrite, if_neg (by omega), if_neg (by omega), if_neg (by omega), if_neg (by omega), if_neg (by omega),
    if_pos h2]

theorem routeWrite_prgRam (h1 : 0x6000 ≤ a.toNat) (h2 : a.toNat ≤ 0x7FFF) :
    routeWrite a v s = { s with cart := writePrgRam s.cart a v } := by
  rw [routeWrite, if_neg (by omega), if_neg (by omega), if_neg (by omega), if_neg (by omega), if_neg (by omega),
    if_neg (by omega), if_pos h2]

theorem routeWrite_bankSelect (h : 0x8000 ≤ a.toNat) :
    routeWrite a v s = { s with cart := writeBankSelect s.cfg s.totalCycles s.cart a v } := by
  rw [routeWrite, if_neg (by omega), if_neg (by omega), if_neg (by omega), if_neg (by omega), if_neg (by omega),
    if_neg (by omega), if_neg (by omega)]

end

/-- Settles O35: each range by its equation, the single device addresses by evaluating the routing at them. -/
theorem busRouting : Obligations.BusRouting := by
  refine ⟨fun s a => ?_, fun s a v => ?_⟩
  · rw [toNat_and_07FF, toNat_and_7]
    exact ⟨routeRead_workRam s, routeRead_register s, by rintro rfl; rfl, by rintro rfl; rfl, by rintro rfl; rfl,
      fun h1 h2 => routeRead_open s (.inl ⟨h1, h2⟩), fun h1 h2 => routeRead_open s (.inr ⟨h1, h2⟩),
      routeRead_prgRam s, routeRead_program s⟩
  · rw [toNat_and_07FF, toNat_and_7]
    refine ⟨routeWrite_workRam v s, routeWrite_register v s, ?_, by rintro rfl; rfl, by rintro rfl; rfl,
      routeWrite_open v s, routeWrite_prgRam v s, routeWrite_bankSelect v s⟩
    rintro (⟨h1, h2⟩ | rfl | rfl)
    · exact routeWrite_audio v s h1 (by omega) (by omega) (by omega)
    · rfl
    · rfl

/-- Settles O36: the write's effect on every byte, and a read of memory gives its byte. -/
theorem readAfterWrite : Obligations.ReadAfterWrite :=
  fun _ _ b v ha hm => ⟨memByte_wr ha hm b v, fun _ => rd_value⟩

end Sys2Proof.Machine
end

section
/-!
PROOFS. What instructions leave unchanged in the memories: those that do not store (O29), and those that store to their
effective address (O30).
-/

namespace Sys2Proof.Machine

/-! ### Instructions that do not store -/

theorem mapRegs_same (f : Regs → Regs) (s : State) : s.sameButReads (mapRegs f s) := .refl s
theorem incS_same (s : State) : s.sameButReads (incS s) := .refl s
theorem rd_same (a : Addr) (s : State) : s.sameButReads (rd a s).2 := (ReadKeeps.rd a s).same

theorem branch_same (b : Bool) (s : State) : s.sameButReads (branch b s) := by
  have offset := (poll_same s).trans (fetch_same (poll s))
  unfold branch
  dsimp only
  split_ifs
  · exact (offset.trans (dummyFetch_same _)).trans (setPc_same _ _)
  · exact (((offset.trans (dummyFetch_same _)).trans (poll_same _)).trans (rd_same _ _)).trans (setPc_same _ _)
  · exact offset

theorem impliedOp_same (op : Regs → Regs) (s : State) : s.sameButReads (impliedOp op s) :=
  ((poll_same s).trans (dummyFetch_same _)).trans (mapRegs_same op _)

theorem pullByte_same (s : State) : s.sameButReads (pullByte s).2 :=
  ((((dummyFetch_same s).trans (dummyStack_same _)).trans (incS_same _)).trans (poll_same _)).trans (readStack_same _)

/-- The return from an interrupt is four stack reads, and changes of the register file between them (R200). -/
theorem returnFromInterrupt_same (s : State) : s.sameButReads (returnFromInterrupt s) := by
  refine .trans (.trans ?low ((incS_same _).trans (poll_same _))) ((readStack_same _).trans (setPc_same _ _))
  refine .trans (.trans ?image ((mapRegs_same _ _).trans (incS_same _))) (readStack_same _)
  exact ((dummyStack_same s).trans (incS_same _)).trans (readStack_same _)

/-- An instruction runs cycles that change nothing but what reads change, and then finishes. -/
def RunsReading (i : Instr) (s : State) : Prop := ∃ u, exec i s = finish u ∧ s.sameButReads u

theorem jmpAbs_runsReading (s : State) : RunsReading .jmpAbs s :=
  ⟨_, rfl, (((fetch_same s).trans (poll_same _)).trans (rd_same _ _)).trans (setPc_same _ _)⟩

theorem jmpInd_runsReading (s : State) : RunsReading .jmpInd s := by
  have pointer := (fetch_same s).trans (fetch_same _)
  exact ⟨_, rfl, (((pointer.trans (rd_same _ _)).trans (poll_same _)).trans (rd_same _ _)).trans (setPc_same _ _)⟩

theorem rts_runsReading (s : State) : RunsReading .rts s := by
  have low := (((dummyFetch_same s).trans (dummyStack_same _)).trans (incS_same _)).trans (readStack_same _)
  have pulled := (low.trans (incS_same _)).trans (readStack_same _)
  exact ⟨_, rfl, ((pulled.trans (setPc_same _ _)).trans (poll_same _)).trans (fetch_same _)⟩

theorem pla_runsReading (s : State) : RunsReading .pla s := ⟨_, rfl, (pullByte_same s).trans (mapRegs_same _ _)⟩

theorem plp_runsReading (s : State) : RunsReading .plp s := ⟨_, rfl, (pullByte_same s).trans (mapRegs_same _ _)⟩

theorem rti_runsReading (s : State) : RunsReading .rti s :=
  ⟨_, rfl, (dummyFetch_same s).trans (returnFromInterrupt_same _)⟩

/-- The instructions in no class that do not store. -/
theorem otherInstr_runsReading {i : Instr} (hi : i ∈ otherInstrs) (hs : i ∉ storing) (s : State) : RunsReading i s := by
  fin_cases hi
  exacts [jmpAbs_runsReading s, jmpInd_runsReading s, absurd (by decide) hs, rts_runsReading s, absurd (by decide) hs,
    absurd (by decide) hs, pla_runsReading s, plp_runsReading s, absurd (by decide) hs, rti_runsReading s]

/-- Every class but the storing ones runs reads, polls and changes of the register file. -/
theorem runsReading {i : Instr} (hs : i ∉ storing) (s : State) : RunsReading i s := by
  rcases instr_kind i with ⟨r, h, rfl⟩ | ⟨r, h, rfl⟩ | ⟨r, h, rfl⟩ | ⟨r, h, rfl⟩ | h | h | ⟨op, rfl⟩
  · obtain ⟨op, he⟩ := exec_readRow h
    exact ⟨_, he s, (r.form.read_same s).trans (mapRegs_same _ _)⟩
  · exact absurd (List.mem_append_left _ (List.mem_append_left _ (List.mem_map_of_mem h))) hs
  · exact absurd (List.mem_append_left _ (List.mem_append_right _ (List.mem_map_of_mem h))) hs
  · exact ⟨_, exec_branchRow h s, branch_same _ s⟩
  · obtain ⟨op, he⟩ := exec_twoCycle h
    exact ⟨_, he s, impliedOp_same op s⟩
  · exact otherInstr_runsReading h hs s
  · exact ⟨_, rfl, (ReadKeeps.refuse _ s).same⟩

/-- Settles O29: a next state is the one behind the instruction's cycles, and these only read. -/
theorem nonStoringLeavesMemory : Obligations.NonStoringLeavesMemory := by
  intro i s t hs h
  obtain ⟨u, hu, same⟩ := runsReading hs s
  obtain ⟨-, rfl⟩ := finish_next (hu ▸ h)
  exact same

/-! ### Frames of stores -/

/-- Reads stay inside the frame of every store, and so does a change of the DMA request or the strobe by a store to its
address. -/
theorem State.storeFrame.of_port {a : Addr} {s t : State}
    (rest : s.sameButReads { t with dmaReq := s.dmaReq, pads := { t.pads with strobe := s.pads.strobe } })
    (dma : a.toNat ≠ 0x4014 → t.dmaReq = s.dmaReq) (strobe : a.toNat ≠ 0x4016 → t.pads.strobe = s.pads.strobe) :
    s.storeFrame a t := by
  have bytes := rest.memByte
  obtain ⟨ram, cart, cfg, -, oam, ciram, palette, ctrl, mask, t', x, -, b0, b1⟩ := rest
  dsimp only at ram cart
  refine ⟨.of_cart_eq cart cfg, fun _ b _ => bytes b, fun _ => ⟨ram, by rw [cart]⟩, fun _ => by rw [cart],
    fun _ => ⟨oam, ciram, palette, by rw [cart]⟩, fun _ => ⟨ctrl, mask, t', x⟩, dma, strobe, b0, b1⟩

theorem State.storeFrame.of_same {s t : State} (h : s.sameButReads t) (a : Addr) : s.storeFrame a t := by
  obtain ⟨ram, cart, cfg, dma, oam, ciram, palette, ctrl, mask, t', x, strobe, b0, b1⟩ := h
  exact .of_port ⟨ram, cart, cfg, rfl, oam, ciram, palette, ctrl, mask, t', x, rfl, b0, b1⟩ (fun _ => dma) (fun _ => strobe)

theorem State.storeFrame.trans {a : Addr} {s t u : State} (h : s.storeFrame a t) (k : t.storeFrame a u) :
    s.storeFrame a u := by
  obtain ⟨images, bytes, ram, cart, mem, regs, dma, strobe, b0, b1⟩ := h
  obtain ⟨images', bytes', ram', cart', mem', regs', dma', strobe', b0', b1'⟩ := k
  refine ⟨images.trans images', fun ha b hb => (bytes' ha b hb).trans (bytes ha b hb), fun ha => ?_, fun ha => ?_,
    fun ha => ?_, fun ha => ?_, fun ha => (dma' ha).trans (dma ha), fun ha => (strobe' ha).trans (strobe ha),
    b0'.trans b0, b1'.trans b1⟩
  · obtain ⟨h1, h2⟩ := ram ha
    obtain ⟨k1, k2⟩ := ram' ha
    exact ⟨k1.trans h1, k2.trans h2⟩
  · rw [cart' ha, cart ha]
  · obtain ⟨h1, h2, h3, h4⟩ := mem ha
    obtain ⟨k1, k2, k3, k4⟩ := mem' ha
    exact ⟨k1.trans h1, k2.trans h2, k3.trans h3, k4.trans h4⟩
  · obtain ⟨h1, h2, h3, h4⟩ := regs ha
    obtain ⟨k1, k2, k3, k4⟩ := regs' ha
    exact ⟨k1.trans h1, k2.trans h2, k3.trans h3, k4.trans h4⟩

/-! ### Writes to the PPU's registers -/

/-- A data-port write reaches graphics RAM and nothing else of the cartridge (R482, R574). -/
theorem vramWriteCart_shape (c : Cartridge) (a : PAddr) (v : Byte) :
    vramWriteCart c a v = { c with chrRam := (vramWriteCart c a v).chrRam } := by
  unfold vramWriteCart writeGraphics
  split_ifs <;> rfl

/-- The PPU's registers reach the PPU and the cartridge, and nothing else that a read would not change (R464-R473). -/
theorem ppuWrite_reach (r : Nat) (v : Byte) (s : State) :
    s.sameButReads { ppuWrite r v s with ppu := s.ppu, cart := s.cart } := by
  unfold ppuWrite ppuRegisterWrite oamdataWrite dataWrite
  simp only [refuse_eq]
  split_ifs <;> exact .refl s

theorem dataWrite_cart (v : Byte) (s : State) :
    (dataWrite v s).cart = { s.cart with chrRam := (dataWrite v s).cart.chrRam } := by
  unfold dataWrite
  split_ifs
  · simp
  · exact vramWriteCart_shape _ _ _

theorem ppuRegisterWrite_cart_of_ne {r : Nat} (h : r ≠ 7) (v : Byte) (s : State) :
    (ppuRegisterWrite r v s).cart = s.cart := by
  unfold ppuRegisterWrite oamdataWrite
  simp only [refuse_eq]
  split_ifs <;> rfl

theorem ppuWrite_cart (r : Nat) (v : Byte) (s : State) :
    (ppuWrite r v s).cart = { s.cart with chrRam := (ppuWrite r v s).cart.chrRam } := by
  unfold ppuWrite
  dsimp only
  split_ifs
  · rfl
  · by_cases h : r = 7
    · rw [h]
      exact dataWrite_cart v _
    · rw [ppuRegisterWrite_cart_of_ne h]
      rfl

/-- Only the data ports reach the PPU's memories (R469, R472). -/
theorem ppuWrite_samePpuMemory {r : Nat} (h4 : r ≠ 4) (h7 : r ≠ 7) (v : Byte) (s : State) :
    s.samePpuMemory (ppuWrite r v s) := by
  unfold ppuWrite ppuRegisterWrite
  dsimp only
  split_ifs <;> exact ⟨rfl, rfl, rfl, rfl⟩

/-- Graphics RAM is on no CPU address. -/
theorem memByte_eq_of_chrRam {s t : State} (ram : t.ram = s.ram) (cfg : t.cfg = s.cfg)
    (cart : t.cart = { s.cart with chrRam := t.cart.chrRam }) (b : Addr) : memByte t b = memByte s b := by
  unfold memByte
  rw [ram, cfg, cart]
  rfl

/-! ### The frame of a write, device by device -/

theorem workRam_frame {a : Addr} (h : a.toNat ≤ 0x1FFF) (v : Byte) (s : State) :
    s.storeFrame a { s with ram := writeCell s.ram (a.toNat % 0x800) v } := by
  refine ⟨.refl s, fun _ b hb => ?_, fun _ => by omega, fun _ => rfl, fun _ => ⟨rfl, rfl, rfl, rfl⟩,
    fun _ => ⟨rfl, rfl, rfl, rfl⟩, fun _ => rfl, fun _ => rfl, rfl, rfl⟩
  unfold memByte
  split_ifs with hb'
  · have other : b.toNat % 0x800 ≠ a.toNat % 0x800 := by
      simpa [sameCell, h, hb', eq_comm] using hb
    simp [other]
  all_goals rfl

theorem ppuWrite_frame {a : Addr} (h1 : 0x2000 ≤ a.toNat) (h2 : a.toNat ≤ 0x3FFF) (v : Byte) (s : State) :
    s.storeFrame a (ppuWrite (a.toNat % 8) v s) := by
  obtain ⟨ram, -, cfg, dma, -, -, -, -, -, -, -, strobe, b0, b1⟩ := ppuWrite_reach (a.toNat % 8) v s
  dsimp only at ram cfg
  have cart := ppuWrite_cart (a.toNat % 8) v s
  refine ⟨(WriteKeeps.ppuWrite _ v s).images, fun _ b _ => memByte_eq_of_chrRam ram cfg cart b, fun _ => by omega,
    fun _ => ?_, fun port => ?_, fun _ => by omega, fun _ => dma, fun _ => strobe, b0, b1⟩
  · rw [cart]
  · simp [dataPort] at port
    exact ppuWrite_samePpuMemory (by omega) (by omega) v s

theorem dmaRequest_frame {a : Addr} (h : a.toNat = 0x4014) (v : Byte) (s : State) :
    s.storeFrame a { s with dmaReq := some v } :=
  .of_port (.refl s) (fun other => absurd h other) (fun _ => rfl)

theorem strobeWrite_frame {a : Addr} (h : a.toNat = 0x4016) (v : Byte) (s : State) :
    s.storeFrame a (strobeWrite v s) := by
  refine .of_port ?_ (fun _ => rfl) (fun other => absurd h other)
  unfold strobeWrite
  dsimp only
  split_ifs <;> exact .refl s

theorem prgRam_frame {a : Addr} (h1 : 0x6000 ≤ a.toNat) (h2 : a.toNat ≤ 0x7FFF) (v : Byte) (s : State) :
    s.storeFrame a { s with cart := writePrgRam s.cart a v } := by
  refine ⟨⟨rfl, rfl, rfl, rfl, rfl, rfl, rfl⟩, fun _ b hb => ?_, fun _ => by omega, fun _ => rfl,
    fun _ => ⟨rfl, rfl, rfl, rfl⟩, fun _ => ⟨rfl, rfl, rfl, rfl⟩, fun _ => rfl, fun _ => rfl, rfl, rfl⟩
  have other : b.toNat ≠ a.toNat := by
    rw [sameCell, if_neg (by omega), decide_eq_false_iff_not] at hb
    exact fun e => hb (BitVec.eq_of_toNat_eq e.symm)
  unfold memByte
  split_ifs
  · rfl
  · rfl
  · have cells : b.toNat - 0x6000 ≠ a.toNat - 0x6000 := by omega
    simp [readPrgRam, writePrgRam, cells]
  · rfl

theorem bankSelect_frame {a : Addr} (h : 0x8000 ≤ a.toNat) (n : Nat) (v : Byte) (s : State) :
    s.storeFrame a { s with cart := writeBankSelect s.cfg n s.cart a v } := by
  obtain ⟨prg, chr, banks, chrBanks, mapper, mirroring, prgRam, chrRam, -⟩ := writeBankSelect_keeps s.cfg n s.cart a v
  exact ⟨⟨prg, chr, banks, chrBanks, mapper, mirroring, rfl⟩, fun _ => by omega, fun _ => ⟨rfl, prgRam⟩, fun _ => by omega,
    fun _ => ⟨rfl, rfl, rfl, chrRam⟩, fun _ => ⟨rfl, rfl, rfl, rfl⟩, fun _ => rfl, fun _ => rfl, rfl, rfl⟩

/-- The routing of a write stays inside the frame of a store to its address (R101). -/
theorem routeWrite_frame (a : Addr) (v : Byte) (s : State) : s.storeFrame a (routeWrite a v s) := by
  unfold routeWrite
  split_ifs
  · exact workRam_frame ‹_› v s
  · exact ppuWrite_frame (by omega) ‹_› v s
  · exact dmaRequest_frame ‹_› v s
  · exact strobeWrite_frame ‹_› v s
  · exact .of_same (.refl s) a
  · exact .of_same (.refl s) a
  · exact prgRam_frame (by omega) ‹_› v s
  · exact bankSelect_frame (by omega) _ v s

/-- A write cycle stays inside the frame of a store to its address (R99, R101). -/
theorem wr_frame (a : Addr) (v : Byte) (s : State) : s.storeFrame a (wr a v s) :=
  (State.storeFrame.of_same (ReadKeeps.tickCycle s).same a).trans (routeWrite_frame a v _)

/-! ### Instructions that store to their effective address -/

/-- The write class: behind the cycles that read, one write at the effective address (R181). -/
theorem writeAt_frame (f : Form) (v : Byte) (s : State) :
    s.storeFrame (f.writeTarget s).1 (writeAt v (f.writeTarget s)) :=
  (State.storeFrame.of_same ((LeadKeeps.writeTarget f s).same.trans (poll_same _)) _).trans (wr_frame _ v _)

/-- The read-modify-write class: both its writes are at the effective address (R182). -/
theorem modifyAt_frame (f : Form) (op : Byte → Flags → Result) (s : State) :
    s.storeFrame (f.writeTarget s).1 (modifyAt op (f.writeTarget s)) := by
  refine .trans (.trans ?polled (wr_frame _ _ _)) (.of_same (mapRegs_same _ _) _)
  refine .trans (.trans ?operand (wr_frame _ _ _)) (.of_same (poll_same _) _)
  exact .of_same ((LeadKeeps.writeTarget f s).same.trans (rd_same _ _)) _

/-- Settles O30: each class ends its cycles inside the frame of its effective address. -/
theorem storesChangeTheirTarget : Obligations.StoresChangeTheirTarget := by
  rintro s t r hr h _ rfl
  rcases List.mem_append.1 hr with hr | hr
  · obtain ⟨-, g, he⟩ := exec_writeRow hr
    obtain ⟨-, rfl⟩ := finish_next (he s ▸ h)
    exact writeAt_frame r.form _ s
  · obtain ⟨-, op, he⟩ := exec_rmwRow hr
    obtain ⟨-, rfl⟩ := finish_next (he s ▸ h)
    exact modifyAt_frame r.form op s

end Sys2Proof.Machine
end

section
/-!
PROOFS. The encoding: decoder and encoder are inverse to each other (O3, O4), the opcode map is what the spec writes out
(O1, O2), and an unassigned byte is refused by its name (O26).
-/

namespace Sys2Proof

/-! ### One instruction's bytes -/

/-- The opcode byte of a well-formed instruction is its own (R147, R152). -/
theorem decodeOpcode_opcode (i : Instr) : Laws.OpcodeRoundTrip.Statement i := by
  cases i with
  | unassigned op => exact Laws.OpcodeRoundTrip.unassigned op
  | _ => exact fun _ => rfl

/-- What the decoder reads behind an opcode byte: a split of the bytes at the operand length of its instruction (R148). -/
theorem decode_cons_eq_ok {op : Byte} {bytes : List Byte} {d : Decoded} : decode (op :: bytes) = .ok d ↔
    d.instr = decodeOpcode op ∧ d.operand.length = d.instr.operandLength ∧ d.operand ++ d.rest = bytes := by
  obtain ⟨i, operand, rest⟩ := d
  simp only [decode]
  constructor
  · intro h
    split_ifs at h with short
    cases h
    exact ⟨rfl, List.length_take_of_le (Nat.le_of_not_lt short), List.take_append_drop _ _⟩
  · rintro ⟨rfl, hlen, rfl⟩
    simp [← hlen]

/-- Settles O3: the opcode byte is the instruction's own, and the split at the operand's length is unique. -/
theorem decodeOfEncode : Obligations.DecodeOfEncode := by
  intro i operand rest wf hlen
  exact decode_cons_eq_ok.2 ⟨(decodeOpcode_opcode i wf).symm, hlen, rfl⟩

/-- Settles O4: the opcode byte of what it decodes to is the byte itself, and the split loses no byte. -/
theorem encodeOfDecode : Obligations.EncodeOfDecode := by
  intro bytes d h
  cases bytes with
  | nil => cases h
  | cons op bytes =>
    obtain ⟨hi, hlen, hsplit⟩ := decode_cons_eq_ok.1 h
    obtain ⟨wf, opcode⟩ := decodeOpcode_wf op
    rw [← hi] at wf opcode
    exact ⟨wf, hlen, by rw [encode, opcode, List.cons_append, hsplit]⟩

/-! ### The opcode map -/

/-- Settles O1: fixed words, each run through the decoder. -/
theorem decodesWrittenOutBytes : Obligations.DecodesWrittenOutBytes := by
  unfold Obligations.DecodesWrittenOutBytes
  decide

/-- A byte is its own unassigned instruction exactly when it is listed: the map and the list are one partition (R150). -/
theorem decodeOpcode_eq_unassigned {op : Byte} : decodeOpcode op = .unassigned op ↔ op ∈ unassignedBytes := by
  constructor
  · intro h
    have wf := (decodeOpcode_wf op).1
    rw [h] at wf
    exact List.contains_iff_mem.1 wf
  · exact fun h => decodeOpcode_of_unassigned op (List.contains_iff_mem.2 h)

/-- Settles O2: the partition of the bytes, and the count over the list. -/
theorem everyByteDecodes : Obligations.EveryByteDecodes := by
  refine ⟨fun op => ?each, ?count⟩
  case each =>
    obtain ⟨wf, opcode⟩ := decodeOpcode_wf op
    exact ⟨wf, opcode, decodeOpcode_eq_unassigned⟩
  case count => decide +kernel

end Sys2Proof

namespace Sys2Proof.Machine

/-! ### Unassigned bytes -/

/-- A fetch from memory reaches no data port, so it marks no refusal (R112, R481). -/
theorem fetch_refused_of_memByte {s : State} {v : Byte} (h : memByte s s.cpu.pc = some v) :
    (fetch s).2.refused = s.refused := by
  have routed : rd s.cpu.pc s = (v, tickCycle s) :=
    routeRead_mem (((ReadKeeps.tickCycle s).memByte s.cpu.pc).trans h)
  simp [fetch, routed]

/-- From an unmarked state an unassigned byte answers the refusal that it marks (R395). -/
theorem exec_unassigned {s : State} (h : s.refused = none) (op : Byte) :
    exec (.unassigned op) s = .refused (.unassignedOpcode op) :=
  finish_marked (s := refuse (.unassignedOpcode op) s) (by simp [h])

/-- Settles O26: the fetch leaves the state unmarked, and the byte it fetched decodes to itself. -/
theorem unassignedByteIsRefused : Obligations.UnassignedByteIsRefused := by
  intro s op unmarked listed
  refine ⟨exec_unassigned unmarked op, fun notDue hpc => ?_⟩
  have fetched : (fetch s).2.refused = none := (fetch_refused_of_memByte hpc).trans unmarked
  rw [step_unmarked unmarked, if_neg (by simp [notDue]), fetch_value hpc, decodeOpcode_eq_unassigned.2 listed,
    exec_unassigned fetched op, afterInstr]

end Sys2Proof.Machine
end

section
/-!
PROOFS. The addressing sequences and the jumps: the operand forms compute the addresses of R142 (O10), and both forms of
JMP load the pc (O19).
-/

namespace Sys2Proof.Machine

/-! ### Operands -/

theorem Form.inMemory_of_bytes {f : Form} {s : State} (first : (memByte s s.cpu.pc).isSome = true)
    (second : f.bytes = 2 → (memByte s (s.cpu.pc + 1)).isSome = true) : f.inMemory s = true := by
  have bytes : f.bytes = 1 ∨ f.bytes = 2 := by cases f <;> decide
  rcases bytes with h | h
  · simp [Form.inMemory, first, h]
  · simp only [Form.inMemory, first, second h, Bool.or_true, Bool.and_true]

/-- Settles O10: both access classes reach one address, which is R142's when the operand bytes lie in memory. -/
theorem operandsAreRead : Obligations.OperandsAreRead := by
  refine ⟨fun s f first second => ?_, fun s f v h => ?_⟩
  · have ea := readTarget_ea (Form.inMemory_of_bytes first second)
    exact ⟨ea, (writeTarget_fst f s).trans ea⟩
  · rw [Form.read_value (by rw [h]; rfl), byteAt_eq h]

/-! ### Jumps -/

/-- A permitted fetch of two bytes leaves the rest of the stretch permitted (R187, R195, R196). -/
theorem fetch_fetch_permits {n : Nat} {as : List Addr} {s : State} (first : s.cpu.pc ∈ as) (second : s.cpu.pc + 1 ∈ as)
    (h : s.permits (n + 2) as = true) : (fetch (fetch s).2).2.permits n as = true :=
  fetch_permits (.inl (by simpa using second)) (fetch_permits (.inl first) h)

/-- The last cycle of a permitted stretch, a read behind the poll (R204). -/
theorem rd_poll_permits {n : Nat} {as : List Addr} {a : Addr} {s : State} (ha : a ∈ as)
    (h : s.permits (n + 1) as = true) : (rd a (poll s)).2.permits n as = true :=
  rd_permits (.inl ha) ((permits_poll _ _ s).trans h)

/-- JMP absolute is a fetch of two bytes with a poll between them, the pc then set to the word (R195, R330). -/
theorem exec_jmpAbs (s : State) : exec .jmpAbs s =
    finish (setPc (word (fetch (fetch s).2).1 (fetch s).1) (rd (s.cpu.pc + 1) (poll (fetch s).2)).2) := by
  have second : (rd (s.cpu.pc + 1) (poll (fetch s).2)).1 = (fetch (fetch s).2).1 := by
    rw [rd_poll, fetch_fst (fetch s).2, fetch_cpu]
  rw [← second]
  simp only [exec, execJmpAbs, fetch_cpu]

/-- JMP indirect reads the pointer, then the word at it, whose second byte lies in the pointer's page (R196, R197). -/
theorem exec_jmpInd (s : State) : exec .jmpInd s =
    let p := jumpPointer s
    let lo := rd p (fetch (fetch s).2).2
    let hi := rd (jumpPointerHigh p) (poll lo.2)
    finish (setPc (word hi.1 lo.1) hi.2) := by
  simp only [jumpPointerHigh, jumpPointer, hi8_word, lo8_word]
  rfl

theorem jumpPointer_eq {s : State} (first : (memByte s s.cpu.pc).isSome = true)
    (second : (memByte s (s.cpu.pc + 1)).isSome = true) :
    jumpPointer s = word (s.byteAt (s.cpu.pc + 1)) (s.byteAt s.cpu.pc) := by
  rw [jumpPointer, fetch_byteAt first, fetch2_byteAt second]

/-- Settles O19: the cycles of each form are permitted, counted, and leave the register file but for the pc. -/
theorem jumpResults : Obligations.JumpResults := by
  refine fun s => ⟨by decide, by decide, fun h => ?absolute, fun h => ?indirect⟩
  case absolute =>
    have low := fetch_permits (n := 1) (.inl (by simp)) h
    have high := rd_poll_permits (n := 0) (a := s.cpu.pc + 1) (by simp) low
    have unmarked (pc : Addr) := (setPc_refused pc _).trans (permits_refused high)
    refine ⟨_, (exec_jmpAbs s).trans (finish_of_none (unmarked _)), ?_, by simp, fun first second => ?_⟩
    · simp
    · rw [setPc_cpu, fetch_byteAt first, fetch2_byteAt second]
  case indirect =>
    have pointer := fetch_fetch_permits (n := 2) (by simp) (by simp) h
    have low := rd_permits (n := 1) (a := jumpPointer s) (.inl (by simp)) pointer
    have high := rd_poll_permits (n := 0) (a := jumpPointerHigh (jumpPointer s)) (by simp) low
    have unmarked (pc : Addr) := (setPc_refused pc _).trans (permits_refused high)
    refine ⟨_, (exec_jmpInd s).trans (finish_of_none (unmarked _)), ?_, by simp, jumpPointer_eq, fun first second => ?_⟩
    · simp
    · rw [setPc_cpu, rd_byteAt first (by simp), rd_byteAt second (by simp)]

end Sys2Proof.Machine
end

section
/-!
PROOFS. A step: the instruction decoded at the pc (O5), and a due interrupt (O6). BRK takes the same entry (O24).
-/

namespace Sys2Proof.Machine

/-! ### The instruction at the pc -/

/-- What follows an instruction that asked for no DMA is nothing (R180). -/
theorem afterInstr_exec_of_no_dma {i : Instr} {s t : State} (h : exec i s = .next t) (dma : t.dmaReq = none) :
    afterInstr (exec i s) = .next t := by
  simp [h, afterInstr, runDma, dma, finish_of_none (exec_refused h)]

/-- What follows an instruction that asked for the DMA is the DMA and a poll (R180, R418, R590). -/
theorem afterInstr_exec_of_dma {i : Instr} {s t : State} {page : Byte} (h : exec i s = .next t)
    (dma : t.dmaReq = some page) : afterInstr (exec i s) = finish (poll (oamDma page t)) := by
  simp [h, afterInstr, runDma, dma]

/-- A step with no interrupt due runs the instruction of the byte in memory at the pc (R180). -/
theorem step_of_memByte {s : State} {op : Byte} (unmarked : s.refused = none) (notDue : s.intr.intDue = false)
    (hpc : memByte s s.cpu.pc = some op) : step s = afterInstr (exec (decodeOpcode op) (fetch s).2) := by
  rw [step_unmarked unmarked, if_neg (by simp [notDue]), fetch_value hpc]

/-- Settles O5: the byte fetched is the one that decodes to the instruction, and what follows it is the DMA it asked for. -/
theorem stepRunsDecodedInstruction : Obligations.StepRunsDecodedInstruction := by
  intro s op tail d unmarked notDue hpc hd
  obtain ⟨instr, -⟩ := decode_cons_eq_ok.1 hd
  have ran : step s = afterInstr (exec d.instr (fetch s).2) := instr ▸ step_of_memByte unmarked notDue hpc
  refine ⟨fetch_cpu s, fetch_same s, fetch_totalCycles s, ran, fun t h dma => ?_, fun t page h dma => ?_, fun r h => ?_⟩
  · rw [ran, afterInstr_exec_of_no_dma h dma]
  · rw [ran, afterInstr_exec_of_dma h dma]
  · rw [ran, h, afterInstr]

/-! ### The entry of an interrupt -/

/-- Cycles before an entry that only read and move the pc do not change what the entry does (R203, R403). -/
theorem State.entered.of_lead {b nmi : Bool} {ret : Addr} {s u t : State}
    (cpu : u.cpu = { s.cpu with pc := u.cpu.pc }) (bytes : ∀ a, memByte u a = memByte s a)
    (h : u.entered b ret nmi t) : s.entered b ret nmi t := by
  have byteAt : u.byteAt = s.byteAt := funext fun a => by simp [State.byteAt, bytes]
  have cell : ∀ k, stackCell u k = stackCell s k := stackCell_congr (by rw [cpu])
  simp only [State.entered, byteAt, cell] at h ⊢
  rw [cpu] at h
  exact h

/-- The two dummy reads of a dispatch change only what reads change, and the request is consumed (R403, R413). -/
theorem dispatchLead_same (s : State) : s.sameButReads (dummyFetch (dummyFetch (clearDue s))) :=
  (dummyFetch_same (clearDue s)).trans (dummyFetch_same _)

/-- A permitted dispatch completes (R403, R481). -/
theorem interruptDispatch_permits {n : Nat} {as : List Addr} {s : State} (ha : s.cpu.pc ∈ as)
    (h : s.permits (n + 7) as = true) : (interruptDispatch s).permits n as = true :=
  enterInterrupt_permits false (dummyFetch_permits (.inl (by simpa using ha)) (dummyFetch_permits (.inl ha) h))

/-- Settles O6: behind its two dummy reads the dispatch is the entry of an interrupt. -/
theorem dueInterruptIsTaken : Obligations.DueInterruptIsTaken := by
  intro s due permitted
  obtain ⟨total, clock⟩ := interruptDispatch_apart (clearDue s)
  refine ⟨interruptDispatch (clearDue s), ?_, ?_, ?_, ?_, total, clock⟩
  · rw [step_unmarked (permits_refused permitted), if_pos due]
    exact finish_of_none (permits_refused (interruptDispatch_permits (n := 0) (by simp) permitted))
  · have entered := enterInterrupt_entered false (dummyFetch (dummyFetch (clearDue s)))
    simp only [dummyFetch_cpu, clearDue_cpu] at entered
    exact entered.of_lead (by simp) (dispatchLead_same s).memByte
  · have pointer : (dummyFetch (dummyFetch (clearDue s))).cpu.s = s.cpu.s := by simp
    simp only [← stackCell_congr pointer]
    exact (State.stackFrame.of_same (dispatchLead_same s)).trans (enterInterrupt_frame false _)
  · simp [interruptDispatch]

/-- Settles O24: behind the fetch of the padding byte BRK is the entry of an interrupt with B set. -/
theorem breakResult : Obligations.BreakResult := by
  refine fun s => ⟨by decide, fun h => ⟨enterInterrupt true (fetch s).2, finish_of_none ?_, ?_, ?_⟩⟩
  · exact permits_refused (enterInterrupt_permits (n := 0) true (fetch_permits (by simp) h))
  · exact (Apart.count (n := 7) ((Apart.fetch s).trans (enterInterrupt_apart true _)) (by decide)).1
  · have entered := enterInterrupt_entered true (fetch s).2
    rw [show (fetch s).2.cpu.pc = s.cpu.pc + 1 by simp] at entered
    exact entered.of_lead (by simp) (fetch_memByte s)

end Sys2Proof.Machine
end

section
/-!
PROOFS. `run_for` ends at most 520 cycles late (O58): the longest instruction, with the DMA behind it, takes 521 cycles.
-/

namespace Sys2Proof.Machine

/-! ### The longest instruction -/

theorem pageCycle_le (ea : Addr) (index : Byte) : pageCycle ea index ≤ 1 := by
  unfold pageCycle
  split_ifs <;> decide

theorem Form.readCycles_le (f : Form) (s : State) : f.readCycles s ≤ 7 := by
  cases f
  case absx | absy | indy => exact Nat.le_trans (Nat.add_le_add_left (pageCycle_le _ _) _) (by decide)
  all_goals exact Nat.le_of_ble_eq_true rfl

theorem Form.writeCycles_le (f : Form) : f.writeCycles ≤ 7 := by
  cases f <;> decide

theorem rmwCycles_le : ∀ r ∈ rmwRows, r.form.rmwCycles ≤ 7 := by decide

theorem branchCycles_le (b : Bool) (s : State) : branchCycles b s ≤ 7 := by
  unfold branchCycles
  split_ifs <;> decide

theorem fixedCycles_le : ∀ k ∈ fixedCycles, k.2 ≤ 7 := by decide

/-- The instructions in no class and those of two cycles are the ones with a fixed count (R207). -/
theorem fixedCycles_covers : ∀ i ∈ twoCycleInstrs ++ otherInstrs, ∃ n, (i, n) ∈ fixedCycles := by
  intro i hi
  rcases List.mem_append.1 hi with h | h
  · exact ⟨2, List.mem_append_left _ (List.mem_map_of_mem h)⟩
  · fin_cases h
    exacts [⟨3, by decide⟩, ⟨5, by decide⟩, ⟨6, by decide⟩, ⟨6, by decide⟩, ⟨3, by decide⟩, ⟨3, by decide⟩, ⟨4, by decide⟩,
      ⟨4, by decide⟩, ⟨7, by decide⟩, ⟨6, by decide⟩]

/-- No instruction takes more than seven cycles, its opcode fetch included (R207). -/
theorem exec_clock_le {i : Instr} {s t : State} (h : exec i s = .next t) : t.clock + 1 ≤ s.clock + 7 := by
  obtain ⟨read, write, rmw, branch, fixed⟩ := cycleCounts s t
  have fixed' (hi : i ∈ twoCycleInstrs ++ otherInstrs) : t.clock + 1 ≤ s.clock + 7 := by
    obtain ⟨n, hn⟩ := fixedCycles_covers i hi
    rw [(fixed _ hn h).2]
    exact Nat.add_le_add_left (fixedCycles_le _ hn) _
  rcases instr_kind i with ⟨r, hr, rfl⟩ | ⟨r, hr, rfl⟩ | ⟨r, hr, rfl⟩ | ⟨r, hr, rfl⟩ | hi | hi | ⟨op, rfl⟩
  · rw [(read r hr h).2]
    exact Nat.add_le_add_left (r.form.readCycles_le s) _
  · rw [(write r hr h).2]
    exact Nat.add_le_add_left r.form.writeCycles_le _
  · rw [(rmw r hr h).2]
    exact Nat.add_le_add_left (rmwCycles_le r hr) _
  · rw [(branch r hr h).2]
    exact Nat.add_le_add_left (branchCycles_le _ s) _
  · exact fixed' (List.mem_append_left _ hi)
  · exact fixed' (List.mem_append_right _ hi)
  · obtain ⟨unmarked, -⟩ := finish_next h
    simp at unmarked

/-! ### The sprite DMA -/

/-- Each byte of the DMA is a read and a write (R590). -/
theorem dmaCopy_apart (page : Byte) (n : Nat) (i : Byte) (s : State) : Apart (2 * n) s (dmaCopy page n i s) := by
  induction n generalizing i s with
  | zero => exact .refl s
  | succ n ih => exact (((Apart.rd _ s).trans (Apart.wr _ _ _)).trans (ih (i + 1) _)).of_eq (by omega)

theorem Apart.tickCycle (s : State) : Apart 1 s (tickCycle s) := ⟨rfl, rfl⟩

/-- The DMA takes 513 cycles, and one more to align (R590). -/
theorem oamDma_apart (page : Byte) (s : State) :
    Apart (if dmaOdd { s with dmaReq := none } then 514 else 513) s (oamDma page s) := by
  have halt : Apart 1 s (Machine.tickCycle { s with dmaReq := none }) := Apart.tickCycle _
  unfold oamDma doIf
  dsimp only
  split_ifs
  · exact (halt.trans (Apart.tickCycle _)).trans (dmaCopy_apart page 256 0 _)
  · exact halt.trans (dmaCopy_apart page 256 0 _)

theorem runDma_clock_le (s : State) : (runDma s).clock ≤ s.clock + 514 := by
  unfold runDma
  split
  · omega
  · next page _ =>
    rw [poll_clock, (oamDma_apart page s).2]
    split_ifs <;> omega

/-! ### Steps and runs of them -/

/-- A step takes at least one cycle and at most the 7 of an instruction and the 514 of the DMA (R180, R207, R590). -/
theorem step_clock {s t : State} (h : step s = .next t) : s.clock < t.clock ∧ t.clock ≤ s.clock + 521 := by
  obtain ⟨n, -, atLeast⟩ := step_apart h
  refine ⟨by omega, ?_⟩
  obtain rfl | ⟨u, hu, rfl⟩ := step_cases h
  · rw [(interruptDispatch_apart _).2, clearDue_clock]
    omega
  · have ran := exec_clock_le hu
    have dma := runDma_clock_le u
    rw [fetch_clock] at ran
    omega

/-- A run from inside its target, with fuel for the cycles left, ends on the target or within 520 cycles of it. -/
theorem runUntil_clock {start n fuel : Nat} {s t : State} (begun : start ≤ s.clock) (late : s.clock ≤ start + n + 520)
    (enough : start + n ≤ s.clock + fuel) (h : runUntil start n fuel s = .next t) :
    start + n ≤ t.clock ∧ t.clock ≤ start + n + 520 := by
  induction fuel generalizing s with
  | zero =>
    cases h
    exact ⟨enough, late⟩
  | succ fuel ih =>
    rw [runUntil] at h
    split_ifs at h with short
    · cases hu : step s with
      | next u =>
        rw [hu] at h
        obtain ⟨least, most⟩ := step_clock hu
        exact ih (by omega) (by omega) (by omega) h
      | fault f => simp [hu] at h
      | refused r => simp [hu] at h
    · cases h
      exact ⟨by omega, late⟩

/-- Settles O58: `n` is fuel enough, since every step takes a cycle, and the last one begins with at most n - 1 gone. -/
theorem runForOvershoots : Obligations.RunForOvershoots :=
  fun _ _ _ => runUntil_clock (Nat.le_refl _) (by omega) (Nat.le_refl _)

end Sys2Proof.Machine
end

section
/-!
PROOFS. Where every instruction polls (O9): one poll behind the penultimate cycle, whose result the last cycle keeps.
-/

namespace Sys2Proof.Machine

/-! ### The poll and the last cycle -/

/-- The poll behind the cycles of a form that come before the access at its effective address (R204). -/
theorem poll_intDue_of_lead {s k : State} (h : LeadKeeps s k) : (poll k).intr.intDue = s.duePolling k s.cpu.p.i :=
  poll_intDue h.intDue h.p

/-- Two-cycle instructions poll behind the opcode fetch (R183, R204). -/
theorem impliedOp_intDue (op : Regs → Regs) (s : State) :
    (impliedOp op s).intr.intDue = s.duePolling s s.cpu.p.i := by
  rw [impliedOp, mapRegs_intr, dummyFetch_intDue, poll_intDue rfl rfl]

/-- The read class polls before the read at its effective address, the immediate form behind the opcode fetch (R181, R184,
R204). -/
theorem Form.read_intDue (f : Form) (s : State) :
    (f.read s).2.intr.intDue = s.duePolling (f.readTarget s).2 s.cpu.p.i := by
  have polled (g : Form) : (readAt (g.readTarget s)).2.intr.intDue = s.duePolling (g.readTarget s).2 s.cpu.p.i :=
    (rd_intDue _ _).trans (poll_intDue_of_lead (LeadKeeps.readTarget g s))
  cases f
  case imm => exact (fetch_intDue (poll s)).trans (poll_intDue rfl rfl)
  exacts [polled .zp, polled .zpx, polled .zpy, polled .abs, polled .absx, polled .absy, polled .indx, polled .indy]

/-- The write class polls before its write (R181, R204). -/
theorem writeAt_intDue (f : Form) (v : Byte) (s : State) :
    (writeAt v (f.writeTarget s)).intr.intDue = s.duePolling (f.writeTarget s).2 s.cpu.p.i :=
  (wr_intDue _ _ _).trans (poll_intDue_of_lead (LeadKeeps.writeTarget f s))

/-- The read-modify-write class polls between its two writes (R182, R204). -/
theorem modifyAt_intDue {f : Form} (hf : f ≠ .imm) (op : Byte → Flags → Result) (s : State) :
    let m := rd (f.writeTarget s).1 (f.writeTarget s).2
    (modifyAt op (f.writeTarget s)).intr.intDue = s.duePolling (wr (f.writeTarget s).1 m.1 m.2) s.cpu.p.i := by
  have lead := LeadKeeps.writeTarget f s
  dsimp only
  rw [modifyAt_eq hf, setP_intr, wr_intDue]
  exact poll_intDue (by simp [lead.intDue]) (by simp [lead.p])

/-! ### Jumps, subroutines, the stack -/

theorem jmpAbs_polls {s t : State} (h : exec .jmpAbs s = .next t) :
    t.intr.intDue = s.duePolling (fetch s).2 s.cpu.p.i := by
  obtain ⟨-, rfl⟩ := finish_next h
  exact (rd_intDue _ _).trans (poll_intDue_of_lead (LeadKeeps.fetch s))

theorem jmpInd_polls {s t : State} (h : exec .jmpInd s = .next t) :
    t.intr.intDue = s.duePolling (rd (jumpPointer s) (fetch (fetch s).2).2).2 s.cpu.p.i := by
  obtain ⟨-, rfl⟩ := finish_next h
  exact (rd_intDue _ _).trans (poll_intDue_of_lead (((LeadKeeps.fetch s).trans (.fetch _)).trans (.rd _ _)))

/-- JSR polls behind its pushes, which are of the address of its last byte (R198). -/
theorem jsr_polls {s t : State} (h : exec .jsr s = .next t) :
    t.intr.intDue = s.duePolling
      (push (lo8 (s.cpu.pc + 1)) (push (hi8 (s.cpu.pc + 1)) (dummyStack (fetch s).2))) s.cpu.p.i := by
  have e : ∃ a, exec .jsr s = finish (setPc a (rd (s.cpu.pc + 1)
      (poll (push (lo8 (s.cpu.pc + 1)) (push (hi8 (s.cpu.pc + 1)) (dummyStack (fetch s).2))))).2) :=
    ⟨_, by simp only [exec, execJsr, poll_cpu, push_cpu, dummyStack_cpu, fetch_cpu]; rfl⟩
  obtain ⟨a, e⟩ := e
  obtain ⟨-, rfl⟩ := finish_next (e ▸ h)
  exact (rd_intDue _ _).trans (poll_intDue (by simp) (by simp))

/-- RTS polls behind the pulls, before its last read (R199). -/
theorem rts_polls {s t : State} (h : exec .rts s = .next t) :
    t.intr.intDue =
      s.duePolling (readStack (incS (readStack (incS (dummyStack (dummyFetch s)))).2)).2 s.cpu.p.i := by
  obtain ⟨-, rfl⟩ := finish_next h
  rw [fetch_intDue, poll_intDue (s := s) (by simp) (by simp)]
  rfl

theorem push_poll_intDue (v : Byte) (s : State) :
    (push v (poll (dummyFetch s))).intr.intDue = s.duePolling (dummyFetch s) s.cpu.p.i := by
  rw [push_intDue, poll_intDue (s := s) (by simp) (by simp)]

/-- PLA and PLP poll before the read at the top of the stack, PLP with I as it was (R202, R204, R206). -/
theorem pullByte_intDue (s : State) :
    (pullByte s).2.intr.intDue = s.duePolling (dummyStack (dummyFetch s)) s.cpu.p.i := by
  rw [pullByte, readStack_intDue, poll_intDue (s := s) (by simp) (by simp)]
  rfl

/-- A stack read sees of the register file nothing but the pointer. -/
theorem readStack_incS_setP (p : Flags) (s : State) :
    (readStack (incS (setP p s))).2 = setP p (readStack (incS s)).2 := by
  refine (congrArg Prod.snd (rd_regs (stackAddr (incS s)) (incS (setP p s)).cpu (incS s))).trans ?_
  show _ = { (readStack (incS s)).2 with cpu := { (readStack (incS s)).2.cpu with p := p } }
  rw [readStack_cpu]
  rfl

/-- RTI polls behind its second pull, with the I that its first one gave (R200, R204, R419). -/
theorem rti_polls {s t : State} (h : exec .rti s = .next t) :
    t.intr.intDue = s.duePolling (readStack (incS (readStack (incS (dummyStack (dummyFetch s)))).2)).2
      ((s.byteAt (stackCell s 1)).getLsbD 2) := by
  obtain ⟨-, rfl⟩ := finish_next h
  have image : (readStack (incS (dummyStack (dummyFetch s)))).1 = s.byteAt (stackCell s 1) :=
    readStack_incS_value (k := 0) (by simp) (by simp)
  unfold returnFromInterrupt
  dsimp only
  rw [setPc_intr, readStack_intDue, image, readStack_incS_setP, poll_eq]
  simp [State.withDue, State.duePolling, pulledImage, irqLine, bit]

/-- BRK does not poll (R204). -/
theorem brk_polls {s t : State} (h : exec .brk s = .next t) : t.intr.intDue = s.intr.intDue := by
  obtain ⟨-, rfl⟩ := finish_next h
  rw [enterInterrupt_intDue, fetch_intDue]

/-! ### Branches -/

/-- The cycles behind a poll see nothing of its result (R412). -/
theorem dummyFetch_fetch_withDue (b : Bool) (s : State) :
    dummyFetch (fetch (s.withDue b)).2 = (dummyFetch (fetch s).2).withDue b := by
  have first : (fetch (s.withDue b)).2 = (fetch s).2.withDue b := by
    show setPc _ (rd s.cpu.pc (s.withDue b)).2 = _
    rw [rd_withDue]
    rfl
  rw [first]
  show (rd (fetch s).2.cpu.pc ((fetch s).2.withDue b)).2 = _
  rw [rd_withDue]
  rfl

/-- The second poll of a branch adds what it finds to what the first one did (R194, R205). -/
theorem poll_withDue_intDue (b : Bool) (s : State) :
    (poll (s.withDue b)).intr.intDue = (b || s.intr.nmiLatched || (irqLine s && !s.cpu.p.i)) := by
  rw [poll_eq]
  rfl

theorem branchCycles_eq_four {b : Bool} {s : State} : branchCycles b s = 4 ↔
    b = true ∧ hi8 (branchTarget (fetch s).1 s) ≠ hi8 (branchNext s) := by
  unfold branchCycles
  split_ifs <;> simp_all

/-- A branch polls behind its opcode fetch, and behind its third cycle when it is taken across a page (R194, R205). -/
theorem branch_intDue (b : Bool) (s : State) :
    let first := s.duePolling s s.cpu.p.i
    (branch b s).intr.intDue = if branchCycles b s = 4
      then first || s.duePolling (dummyFetch (fetch s).2) s.cpu.p.i else first := by
  have first : (fetch (poll s)).2.intr.intDue = s.duePolling s s.cpu.p.i :=
    (fetch_intDue _).trans (poll_intDue rfl rfl)
  have next : (fetch (poll s)).2.cpu.pc = branchNext s := by
    rw [fetch_cpu]
    rfl
  have second : (poll (dummyFetch (fetch (poll s)).2)).intr.intDue =
      (s.duePolling s s.cpu.p.i || s.duePolling (dummyFetch (fetch s).2) s.cpu.p.i) := by
    rw [poll_eq s, dummyFetch_fetch_withDue, poll_withDue_intDue]
    simp only [State.duePolling, dummyFetch_cpu, fetch_cpu]
    cases s.intr.intDue <;> simp [Bool.or_assoc]
  unfold branch
  dsimp only
  rw [next, fetch_poll, show branchNext s + sext16 (fetch s).1 = branchTarget (fetch s).1 s from rfl]
  simp only [branchCycles_eq_four]
  cases b
  case false => simpa using first
  case true =>
    by_cases page : hi8 (branchTarget (fetch s).1 s) = hi8 (branchNext s)
    · simpa [page] using first
    · simpa [page] using second

/-- Settles O9: each class polls where its operation does, and the last cycle keeps what the poll found. -/
theorem instructionPolls : Obligations.InstructionPolls := by
  refine ⟨fun s t => ⟨fun i hi h => ?_, fun r hr h => ?_, fun r hr h => ?_, fun r hr h => ?_, jmpAbs_polls, jmpInd_polls,
    jsr_polls, rts_polls, fun i hi h => ?_, fun i hi h => ?_, rti_polls, brk_polls⟩, fun s t r hr h => ?_⟩
  · obtain ⟨op, he⟩ := exec_twoCycle hi
    obtain ⟨-, rfl⟩ := finish_next (he s ▸ h)
    exact impliedOp_intDue op s
  · obtain ⟨op, he⟩ := exec_readRow hr
    obtain ⟨-, rfl⟩ := finish_next (he s ▸ h)
    exact r.form.read_intDue s
  · obtain ⟨-, g, he⟩ := exec_writeRow hr
    obtain ⟨-, rfl⟩ := finish_next (he s ▸ h)
    exact writeAt_intDue r.form _ s
  · obtain ⟨hf, op, he⟩ := exec_rmwRow hr
    obtain ⟨-, rfl⟩ := finish_next (he s ▸ h)
    exact modifyAt_intDue hf op s
  · fin_cases hi <;> obtain ⟨-, rfl⟩ := finish_next h <;> exact push_poll_intDue _ s
  · fin_cases hi <;> obtain ⟨-, rfl⟩ := finish_next h <;> exact pullByte_intDue s
  · obtain ⟨-, rfl⟩ := finish_next (exec_branchRow hr s ▸ h)
    exact branch_intDue _ s

end Sys2Proof.Machine
end

section
/-!
PROOFS. Loads, stores and transfers: the results of every form of LDA, LDX and LDY (O11), of STA, STX and STY (O12), and
of the six register transfers (O13).
-/

namespace Sys2Proof.Machine

/-! ### The loads of a register, in numbers -/

theorem loadA_eq (m : Byte) (r : Regs) : loadA m r = { r with a := m, p := r.p.nz m } := by rw [loadA, setNZ_eq]
theorem loadX_eq (m : Byte) (r : Regs) : loadX m r = { r with x := m, p := r.p.nz m } := by rw [loadX, setNZ_eq]
theorem loadY_eq (m : Byte) (r : Regs) : loadY m r = { r with y := m, p := r.p.nz m } := by rw [loadY, setNZ_eq]

/-! ### The read class -/

theorem readRows_decode : ∀ r ∈ readRows, decodeOpcode r.byte = r.instr := by decide

/-- The rows of a mnemonic of the read class give what its operation gives (R181, R207). -/
theorem readOps_readsTo {g : OpRows (Byte → Regs → Regs)} (hg : g ∈ readOps) {f : Byte → Regs → Regs}
    (hf : ∀ m k, g.op m k = f m k) (s : State) : ∀ r ∈ g.rows, r.readsTo s f := by
  intro r hr
  have row : r ∈ readRows := List.mem_flatMap.2 ⟨g, hg, hr⟩
  exact readsTo_of (readRows_decode r row) (exec_readOps g hg r hr s) hf

/-- Settles O11: each mnemonic's operation is the load of its register. -/
theorem loadResults : Obligations.LoadResults := by
  refine fun s => ⟨?lda, ?ldx, ?ldy⟩
  case lda => exact readOps_readsTo (g := ⟨ldaRows, loadA, [.a, .nz]⟩) (by simp [readOps]) loadA_eq s
  case ldx => exact readOps_readsTo (g := ⟨ldxRows, loadX, [.x, .nz]⟩) (by simp [readOps]) loadX_eq s
  case ldy => exact readOps_readsTo (g := ⟨ldyRows, loadY, [.y, .nz]⟩) (by simp [readOps]) loadY_eq s

/-! ### The write class -/

/-- The mnemonics of the write class, each with the register that it stores; none changes a part of the register file. -/
def storeOps : List (OpRows (Regs → Byte)) := [⟨staRows, Regs.a, []⟩, ⟨stxRows, Regs.x, []⟩, ⟨styRows, Regs.y, []⟩]

theorem exec_storeOps : ∀ g ∈ storeOps, ∀ r ∈ g.rows, ∀ s,
    exec r.instr s = finish (writeAt (g.op s.cpu) (r.form.writeTarget s)) := by
  intro g hg
  fin_cases hg <;> intro r hr <;> fin_cases hr <;> exact fun _ => rfl

theorem writeRows_decode : ∀ r ∈ writeRows, decodeOpcode r.byte = r.instr := by decide

/-- The rows of a mnemonic of the write class store its register (R181, R207). -/
theorem storeOps_stores {g : OpRows (Regs → Byte)} (hg : g ∈ storeOps) (s : State) :
    ∀ r ∈ g.rows, r.stores s (g.op s.cpu) := by
  intro r hr
  have row : r ∈ writeRows := List.mem_flatMap.2 ⟨g, hg, hr⟩
  exact stores_of (writeRows_decode r row) (exec_writeRow row).1 (exec_storeOps g hg r hr s)

/-- Settles O12: each mnemonic stores its own register. -/
theorem storeResults : Obligations.StoreResults := by
  refine fun s => ⟨?sta, ?stx, ?sty⟩
  case sta => exact storeOps_stores (g := ⟨staRows, Regs.a, []⟩) (by simp [storeOps]) s
  case stx => exact storeOps_stores (g := ⟨stxRows, Regs.x, []⟩) (by simp [storeOps]) s
  case sty => exact storeOps_stores (g := ⟨styRows, Regs.y, []⟩) (by simp [storeOps]) s

/-! ### The transfers -/

/-- Settles O13: five transfers are loads of the destination with the source; TXS copies X alone. -/
theorem transferResults : Obligations.TransferResults := by
  refine fun s => ⟨?tax, ?tay, ?txa, ?tya, ?tsx, ?txs⟩
  case tax => exact impliedDoes_of (op := fun r => loadX r.a r) rfl rfl fun k => loadX_eq k.a k
  case tay => exact impliedDoes_of (op := fun r => loadY r.a r) rfl rfl fun k => loadY_eq k.a k
  case txa => exact impliedDoes_of (op := fun r => loadA r.x r) rfl rfl fun k => loadA_eq k.x k
  case tya => exact impliedDoes_of (op := fun r => loadA r.y r) rfl rfl fun k => loadA_eq k.y k
  case tsx => exact impliedDoes_of (op := fun r => loadX r.s r) rfl rfl fun k => loadX_eq k.s k
  case txs => exact impliedDoes_of (op := fun r => { r with s := r.x }) rfl rfl fun _ => rfl

end Sys2Proof.Machine
end

section
/-!
PROOFS. Arithmetic and logic: the results of every form of ADC and SBC (O14), of AND, ORA and EOR (O15), of CMP, CPX, CPY and
BIT (O16), and of the increments and decrements (O17).
-/

namespace Sys2Proof.Machine

/-! ### Addition, subtraction and logic -/

/-- Settles O14: the binary sum and difference of `addWithCarry_eq` and `subtractWithBorrow_eq`, for every row. -/
theorem addSubtractResults : Obligations.AddSubtractResults := by
  refine ⟨fun s => ?adc, fun s => ?sbc⟩
  case adc => exact readOps_readsTo (g := ⟨adcRows, addWithCarry, [.a, .c, .nz, .v]⟩) (by simp [readOps]) addWithCarry_eq s
  case sbc =>
    exact readOps_readsTo (g := ⟨sbcRows, subtractWithBorrow, [.a, .c, .nz, .v]⟩) (by simp [readOps])
      subtractWithBorrow_eq s

/-- Settles O15: each operation is the load of A with the combined byte. -/
theorem logicResults : Obligations.LogicResults := by
  refine fun s => ⟨?and, ?ora, ?eor⟩
  case and =>
    exact readOps_readsTo (g := ⟨andRows, andA, [.a, .nz]⟩) (by simp [readOps]) (fun m k => loadA_eq (k.a &&& m) k) s
  case ora =>
    exact readOps_readsTo (g := ⟨oraRows, orA, [.a, .nz]⟩) (by simp [readOps]) (fun m k => loadA_eq (k.a ||| m) k) s
  case eor =>
    exact readOps_readsTo (g := ⟨eorRows, xorA, [.a, .nz]⟩) (by simp [readOps]) (fun m k => loadA_eq (k.a ^^^ m) k) s

/-! ### Comparison and BIT -/

theorem compareA_eq (m : Byte) (r : Regs) : compareA m r = { r with p := cmpResult r.a m r.p } := by
  rw [compareA, compareFlags_eq]

theorem compareX_eq (m : Byte) (r : Regs) : compareX m r = { r with p := cmpResult r.x m r.p } := by
  rw [compareX, compareFlags_eq]

theorem compareY_eq (m : Byte) (r : Regs) : compareY m r = { r with p := cmpResult r.y m r.p } := by
  rw [compareY, compareFlags_eq]

theorem bit_six (m : Byte) : bit m 6 = decide (64 ≤ m.toNat % 128) := by
  rw [bit, BitVec.getLsbD, Nat.testBit_eq_decide_div_mod_eq, decide_eq_decide]
  omega

/-- BIT in numbers: N and V are bits 7 and 6 of the operand, Z tells whether A and it share a bit (R279). -/
theorem testBits_eq (m : Byte) (r : Regs) : testBits m r =
    { r with p := { r.p with z := (r.a &&& m) = 0, n := 128 ≤ m.toNat, v := 64 ≤ m.toNat % 128 } } := by
  rw [testBits, bitFlags, bit_seven, bit_six]

/-- Settles O16: the comparisons differ in their register alone; BIT reads two bits of its operand. -/
theorem compareAndBitResults : Obligations.CompareAndBitResults := by
  refine ⟨fun s => ⟨?cmp, ?cpx, ?cpy⟩, fun s => ?bit⟩
  case cmp => exact readOps_readsTo (g := ⟨cmpRows, compareA, [.c, .nz]⟩) (by simp [readOps]) compareA_eq s
  case cpx => exact readOps_readsTo (g := ⟨cpxRows, compareX, [.c, .nz]⟩) (by simp [readOps]) compareX_eq s
  case cpy => exact readOps_readsTo (g := ⟨cpyRows, compareY, [.c, .nz]⟩) (by simp [readOps]) compareY_eq s
  case bit => exact readOps_readsTo (g := ⟨bitRows, testBits, [.nz, .v]⟩) (by simp [readOps]) testBits_eq s

/-! ### The read-modify-write class -/

theorem rmwRows_decode : ∀ r ∈ rmwRows, decodeOpcode r.byte = r.instr := by decide

/-- The rows of a mnemonic of the read-modify-write class change M as its operation does (R182, R207). -/
theorem modifyOps_modifies {g : OpRows (Byte → Flags → Result)} (hg : g ∈ modifyOps) {f : Byte → Flags → Byte × Flags}
    (hf : ∀ m p, g.op m p = f m p) (s : State) : ∀ r ∈ g.rows, r.modifies s f := by
  intro r hr
  have row : r ∈ rmwRows := List.mem_flatMap.2 ⟨g, hg, hr⟩
  exact modifies_of (rmwRows_decode r row) (exec_rmwRow row).1 (exec_modifyOps g hg r hr s) hf

/-- Settles O17: INC and DEC change M by `incByte` and `decByte`; the register forms are loads of the register with its
neighbour. -/
theorem incrementResults : Obligations.IncrementResults := by
  refine ⟨fun s => ⟨?inc, ?dec⟩, fun s => ⟨?inx, ?iny, ?dex, ?dey⟩⟩
  case inc => exact modifyOps_modifies (g := ⟨incRows, incByte, [.nz]⟩) (by simp [modifyOps]) incByte_eq s
  case dec => exact modifyOps_modifies (g := ⟨decRows, decByte, [.nz]⟩) (by simp [modifyOps]) decByte_eq s
  case inx => exact impliedDoes_of (op := fun r => loadX (r.x + 1) r) rfl rfl fun k => loadX_eq (k.x + 1) k
  case iny => exact impliedDoes_of (op := fun r => loadY (r.y + 1) r) rfl rfl fun k => loadY_eq (k.y + 1) k
  case dex => exact impliedDoes_of (op := fun r => loadX (r.x - 1) r) rfl rfl fun k => loadX_eq (k.x - 1) k
  case dey => exact impliedDoes_of (op := fun r => loadY (r.y - 1) r) rfl rfl fun k => loadY_eq (k.y - 1) k

end Sys2Proof.Machine
end

section
/-!
PROOFS. Shifts and rotates: the results of every form of ASL, LSR, ROL and ROR (O18).
-/

namespace Sys2Proof.Machine

/-- On A, the operation of a shift has the result that it has on a byte of memory. -/
theorem modifyA_eq {op f : Byte → Flags → Byte × Flags} (hf : ∀ m p, op m p = f m p) (r : Regs) :
    modifyA op r = onA f r := by
  rw [modifyA, onA, hf]

/-- Settles O18: the results are those of `aslByte_eq`, `lsrByte_eq`, `rolByte_eq` and `rorByte_eq`, on A and on M alike. -/
theorem shiftResults : Obligations.ShiftResults := by
  refine fun s => ⟨?aslA, ?asl, ?lsrA, ?lsr, ?rolA, ?rol, ?rorA, ?ror⟩
  case aslA => exact impliedDoes_of (op := modifyA aslByte) rfl rfl (modifyA_eq aslByte_eq)
  case asl => exact modifyOps_modifies (g := ⟨aslRows, aslByte, [.c, .nz]⟩) (by simp [modifyOps]) aslByte_eq s
  case lsrA => exact impliedDoes_of (op := modifyA lsrByte) rfl rfl (modifyA_eq lsrByte_eq)
  case lsr => exact modifyOps_modifies (g := ⟨lsrRows, lsrByte, [.c, .nz]⟩) (by simp [modifyOps]) lsrByte_eq s
  case rolA => exact impliedDoes_of (op := modifyA rolByte) rfl rfl (modifyA_eq rolByte_eq)
  case rol => exact modifyOps_modifies (g := ⟨rolRows, rolByte, [.c, .nz]⟩) (by simp [modifyOps]) rolByte_eq s
  case rorA => exact impliedDoes_of (op := modifyA rorByte) rfl rfl (modifyA_eq rorByte_eq)
  case ror => exact modifyOps_modifies (g := ⟨rorRows, rorByte, [.c, .nz]⟩) (by simp [modifyOps]) rorByte_eq s

end Sys2Proof.Machine
end

section
/-!
PROOFS. Calls, returns and branches: what JSR pushes and where it jumps, what RTS pulls (O20), and where each branch goes
(O21).
-/

namespace Sys2Proof.Machine

/-- The cycles of a completed instruction with a fixed count (R207). -/
theorem fixedCycles_count {i : Instr} {n : Nat} {s t : State} (hi : (i, n) ∈ fixedCycles) (h : exec i s = .next t) :
    t.totalCycles + 1 = s.totalCycles + n := by
  obtain ⟨-, -, -, -, fixed⟩ := cycleCounts s t
  exact (fixed _ hi h).1

/-! ### JSR -/

/-- The state in which JSR has pushed the address of its last byte (R198). -/
def returnPushed (s : State) : State :=
  push (lo8 (s.cpu.pc + 1)) (push (hi8 (s.cpu.pc + 1)) (dummyStack (fetch s).2))

/-- JSR reads the target's high byte behind its pushes (R198, R331). -/
theorem exec_jsr (s : State) : exec .jsr s =
    let high := rd (s.cpu.pc + 1) (poll (returnPushed s))
    finish (setPc (word high.1 (fetch s).1) high.2) := by
  simp only [exec, execJsr, returnPushed, poll_cpu, push_cpu, dummyStack_cpu, fetch_cpu]

theorem returnPushed_cpu (s : State) :
    (returnPushed s).cpu = { s.cpu with s := s.cpu.s - 2, pc := s.cpu.pc + 1 } := by
  simp [returnPushed, sub_one_one]

/-- Two pushes store to the cell at the pointer and the one under it, the high byte of the address first (R44). -/
theorem memByte_returnPushed (s : State) (a : Addr) : memByte (returnPushed s) a =
    if sameCell (stackCell s (-1)) a then some (lo8 (s.cpu.pc + 1))
    else if sameCell (stackCell s 0) a then some (hi8 (s.cpu.pc + 1)) else memByte s a := by
  have cell := stackCell_congr (s := s) (t := dummyStack (fetch s).2) (by simp)
  rw [returnPushed, memByte_push_push, cell, cell, dummyStack_memByte, fetch_memByte]

theorem returnPushed_permits {n : Nat} {as : List Addr} {s : State} (ha : s.cpu.pc ∈ as)
    (h : s.permits (n + 4) as = true) : (returnPushed s).permits n as = true :=
  push_permits _ (push_permits _ (dummyStack_permits (fetch_permits (.inl ha) h)))

/-- Pushes take no byte of memory away. -/
theorem returnPushed_isSome {s : State} {a : Addr} (h : (memByte s a).isSome = true) :
    (memByte (returnPushed s) a).isSome = true := by
  rw [memByte_returnPushed]
  split_ifs
  exacts [rfl, rfl, h]

/-! ### RTS -/

/-- The state in which RTS has pulled both bytes (R199). -/
def returnPulled (s : State) : State := (readStack (incS (readStack (incS (dummyStack (dummyFetch s)))).2)).2

/-- RTS reads a byte at the address it pulls and moves the pc behind it (R199, R332). -/
theorem exec_rts (s : State) :
    exec .rts s = finish (fetch (poll (setPc (pulledAddress s) (returnPulled s)))).2 := by
  have low : (readStack (incS (dummyStack (dummyFetch s)))).1 = s.byteAt (stackCell s 1) :=
    readStack_incS_value (k := 0) (by simp) (by simp)
  have high : (readStack (incS (readStack (incS (dummyStack (dummyFetch s)))).2)).1 = s.byteAt (stackCell s 2) :=
    readStack_incS_value (k := 1) (by simp) (by simp)
  rw [pulledAddress, ← low, ← high]
  rfl

theorem returnPulled_cpu (s : State) : (returnPulled s).cpu = { s.cpu with s := s.cpu.s + 2 } := by
  simp [returnPulled, BitVec.add_assoc]

theorem returnPulled_permits {n : Nat} {as : List Addr} {s : State} (ha : s.cpu.pc ∈ as)
    (h : s.permits (n + 4) as = true) : (returnPulled s).permits n as = true := by
  have top : (dummyStack (dummyFetch s)).permits (n + 2) as = true := dummyStack_permits (dummyFetch_permits (.inl ha) h)
  have low := readStack_permits ((permits_incS _ _ _).trans top)
  exact readStack_permits ((permits_incS _ _ _).trans low)

/-- Settles O20: JSR reads once more behind its pushes, RTS once more behind its pulls. -/
theorem callAndReturnResults : Obligations.CallAndReturnResults := by
  refine ⟨fun s => ⟨by decide, fun h => ?jsr⟩, fun s => ⟨by decide, fun h => ?rts⟩⟩
  case jsr =>
    have high := rd_poll_permits (n := 0) (a := s.cpu.pc + 1) (by simp) (returnPushed_permits (by simp) h)
    have done := (exec_jsr s).trans (finish_of_none ((setPc_refused _ _).trans (permits_refused high)))
    refine ⟨_, done, fixedCycles_count (by decide) done, ?cpu, ?pushedHigh, ?pushedLow, fun first second => ?target⟩
    case cpu => simp [returnPushed_cpu]
    case pushedHigh => simp [memByte_returnPushed, sameCell_stack]
    case pushedLow => simp [memByte_returnPushed, sameCell_stack]
    case target =>
      rw [setPc_cpu, fetch_byteAt first, rd_byteAt (returnPushed_isSome second) (poll_memByte · _)]
      simp [State.byteAt]
  case rts =>
    have pulled : (poll (setPc (pulledAddress s) (returnPulled s))).permits 1 [s.cpu.pc, pulledAddress s] = true := by
      rw [permits_poll, permits_setPc]
      exact returnPulled_permits (by simp) h
    have done := (exec_rts s).trans (finish_of_none (permits_refused (fetch_permits (n := 0) (by simp) pulled)))
    refine ⟨_, done, fixedCycles_count (by decide) done, ?_⟩
    simp [returnPulled_cpu]

/-! ### Branches -/

/-- A branch in the terms of its next instruction and its target: the fetch of the offset; when taken the read of the next
opcode; when the page changes the read at the address with the old page (R194, R205). -/
theorem branch_eq (b : Bool) (s : State) : branch b s =
    let offset := (fetch (poll s)).2
    let target := branchTarget (fetch s).1 s
    if b then
      if hi8 target = hi8 (branchNext s) then setPc target (dummyFetch offset)
      else setPc target (rd (word (hi8 (branchNext s)) (lo8 target)) (poll (dummyFetch offset))).2
    else offset := by
  have next : (fetch (poll s)).2.cpu.pc = branchNext s := by
    rw [fetch_cpu]
    rfl
  rw [branch, next, fetch_poll]
  rfl

theorem branch_cpu_eq (b : Bool) (s : State) :
    (branch b s).cpu = { s.cpu with pc := if b then branchTarget (fetch s).1 s else branchNext s } := by
  rw [branch_eq]
  dsimp only
  split_ifs <;> simp [branchNext]

/-- The accesses of a branch are permitted, whichever of its cycles it runs (R194, R481). -/
theorem branch_permits {n : Nat} {s : State} (b : Bool) (h : s.permits (n + 3) (branchAccesses s) = true) :
    (branch b s).permits n (branchAccesses s) = true := by
  have shorter {m : Nat} {t : State} (hm : n ≤ m) (ht : t.permits m (branchAccesses s) = true) :
      t.permits n (branchAccesses s) = true := permits_mono hm (fun _ => .inl) ht
  have offset : (fetch (poll s)).2.permits (n + 2) (branchAccesses s) = true :=
    fetch_permits (.inl (by simp [branchAccesses])) ((permits_poll _ _ s).trans h)
  have opcode : (dummyFetch (fetch (poll s)).2).permits (n + 1) (branchAccesses s) = true :=
    dummyFetch_permits (.inl (by simp [branchAccesses, branchNext])) offset
  rw [branch_eq]
  dsimp only
  split_ifs
  · exact (permits_setPc _ _ _ _).trans (shorter (Nat.le_add_right n 1) opcode)
  · exact (permits_setPc _ _ _ _).trans (rd_poll_permits (by simp [branchAccesses]) opcode)
  · exact shorter (Nat.le_add_right n 2) offset

theorem branchRows_decode : ∀ r ∈ branchRows, decodeOpcode r.byte = r.instr := by decide

/-- Settles O21: every row is the one operation on its condition, whose cycles are permitted and counted. -/
theorem branchResults : Obligations.BranchResults := by
  intro s r hr
  refine ⟨branchRows_decode r hr, fun h => ?_⟩
  have done := (exec_branchRow hr s).trans (finish_of_none (permits_refused (branch_permits (n := 0) _ h)))
  exact ⟨_, done, ((branch_apart _ s).count (branchCycles_pos _ s)).1, branch_cpu_eq _ s, fun _ => fetch_value⟩

end Sys2Proof.Machine
end

section
/-!
PROOFS. The stack and the flags: what PHA and PHP push and PLA and PLP pull (O22), and the one flag that each flag instruction
writes (O23).
-/

namespace Sys2Proof.Machine

/-! ### Pushes -/

/-- The pushed image of P as a number: bit 5 is set, and bit 4 is B (R47). -/
theorem pushedImage_eq (b : Bool) (p : Flags) : pushedImage b p =
    BitVec.ofNat 8 (128 * num p.n + 64 * num p.v + 32 + 16 * num b + 8 * num p.d + 4 * num p.i + 2 * num p.z + num p.c) := by
  obtain ⟨n, v, d, i, z, c⟩ := p
  revert b n v d i z c
  decide

/-- An instruction that pushes one byte behind its dummy read stores it at the pointer, which goes down by one (R44, R201). -/
theorem pushes_of {i : Instr} {v : Byte} {s : State} (hi : (i, 3) ∈ fixedCycles)
    (he : exec i s = finish (push v (poll (dummyFetch s)))) (h : s.permits 2 [s.cpu.pc] = true) :
    ∃ t, exec i s = .next t ∧ t.totalCycles + 1 = s.totalCycles + 3 ∧ t.cpu = { s.cpu with s := s.cpu.s - 1 } ∧
      memByte t (stackCell s 0) = some v := by
  have lead : (poll (dummyFetch s)).permits 1 [s.cpu.pc] = true :=
    (permits_poll _ _ _).trans (dummyFetch_permits (by simp) h)
  have done := he.trans (finish_of_none (permits_refused (push_permits (n := 0) v lead)))
  refine ⟨_, done, fixedCycles_count hi done, by simp, ?_⟩
  rw [memByte_push, stackCell_congr (s := s) (by simp), sameCell_stack_self, if_pos rfl]

/-! ### Pulls -/

/-- PLA and PLP pull the byte above the pointer (R202). -/
theorem pullByte_value (s : State) : (pullByte s).1 = s.byteAt (stackCell s 1) :=
  readStack_value (by simp) (by simp)

theorem pullByte_permits {n : Nat} {as : List Addr} {s : State} (ha : s.cpu.pc ∈ as)
    (h : s.permits (n + 3) as = true) : (pullByte s).2.permits n as = true := by
  refine readStack_permits ?_
  rw [permits_poll, permits_incS]
  exact dummyStack_permits (dummyFetch_permits (.inl ha) h)

/-- An instruction that pulls one byte gives it to its operation, with the pointer already up by one (R44, R202). -/
theorem pulls_of {i : Instr} {op : Byte → Regs → Regs} {s : State} (hi : (i, 4) ∈ fixedCycles)
    (he : exec i s = finish (readOp op (pullByte s))) (h : s.permits 3 [s.cpu.pc] = true) :
    ∃ t, exec i s = .next t ∧ t.totalCycles + 1 = s.totalCycles + 4 ∧
      t.cpu = op (s.byteAt (stackCell s 1)) { s.cpu with s := s.cpu.s + 1 } := by
  have pulled : (readOp op (pullByte s)).permits 0 [s.cpu.pc] = true :=
    (permits_mapRegs _ _ _ _).trans (pullByte_permits (by simp) h)
  have done := he.trans (finish_of_none (permits_refused pulled))
  refine ⟨_, done, fixedCycles_count hi done, ?_⟩
  rw [readOp, mapRegs_cpu, pullByte_cpu, pullByte_value]

/-- Settles O22: PHA pushes A and PHP the image of P with B set; PLA loads A with the pulled byte, PLP takes it for P. -/
theorem pushAndPullResults : Obligations.PushAndPullResults := by
  refine ⟨fun s => ⟨by decide, by decide, fun h => ⟨?pha, ?php⟩⟩, fun s => ⟨by decide, by decide, fun h => ⟨?pla, ?plp⟩⟩⟩
  case pha => exact pushes_of (by decide) rfl h
  case php =>
    have image := pushedImage_eq true s.cpu.p
    exact image ▸ pushes_of (v := pushedImage true s.cpu.p) (by decide) rfl h
  case pla =>
    have pulled := pulls_of (i := .pla) (op := loadA) (by decide) rfl h
    rwa [loadA_eq] at pulled
  case plp => exact pulls_of (op := fun v r => { r with p := pulledImage v }) (by decide) rfl h

/-! ### Flags -/

/-- A flag instruction changes P by its one function and nothing else in the register file (R183, R206). -/
theorem flagOp_does {i : Instr} {b : Byte} {s : State} {f : Flags → Flags} (hd : decodeOpcode b = i)
    (he : exec i s = finish (flagOp f s)) : impliedDoes i b s (fun k => { k with p := f k.p }) :=
  impliedDoes_of hd he fun _ => rfl

/-- Settles O23: each flag instruction is a `flagOp` that writes its one flag; NOP is the implied form with no operation. -/
theorem flagResults : Obligations.FlagResults := by
  refine fun s => ⟨?clc, ?sec, ?cli, ?sei, ?cld, ?sed, ?clv, ?nop⟩
  case clc => exact flagOp_does (f := fun p => { p with c := false }) rfl rfl
  case sec => exact flagOp_does (f := fun p => { p with c := true }) rfl rfl
  case cli => exact flagOp_does (f := fun p => { p with i := false }) rfl rfl
  case sei => exact flagOp_does (f := fun p => { p with i := true }) rfl rfl
  case cld => exact flagOp_does (f := fun p => { p with d := false }) rfl rfl
  case sed => exact flagOp_does (f := fun p => { p with d := true }) rfl rfl
  case clv => exact flagOp_does (f := fun p => { p with v := false }) rfl rfl
  case nop => exact impliedDoes_of (op := id) rfl rfl fun _ => rfl

end Sys2Proof.Machine
end

section
/-!
PROOFS. Interrupts: a latched NMI takes over the entry that it precedes (O7), and what a poll decides (O8).
-/

namespace Sys2Proof.Machine

/-! ### No new edge during an entry -/

/-- A bus cycle whose routing leaves the PPU and the interrupt state alone does to the latch what its ticks do (R99, R410). -/
theorem State.NoEdge.of_ticked {n : Nat} {s t : State} (hn : n < 300) (h : s.NoEdge (n + 3))
    (ppu : t.ppu = (Machine.tickCycle s).ppu) (intr : t.intr = (Machine.tickCycle s).intr) :
    t.NoEdge n ∧ t.intr.nmiLatched = s.intr.nmiLatched := by
  obtain ⟨quiet, latch⟩ := h.tickCycle hn
  exact ⟨quiet.of_eq ppu (by rw [intr]), by rw [intr, latch]⟩

theorem State.NoEdge.push {n : Nat} {s : State} (hn : n < 300) (h : s.NoEdge (n + 3)) (v : Byte) :
    (push v s).NoEdge n ∧ (push v s).intr.nmiLatched = s.intr.nmiLatched := by
  refine h.of_ticked hn ?_ ?_ <;> rw [Machine.push, wr_ram_eq (stackAddr_le s)] <;> rfl

/-- A read cycle of memory is its ticks and the byte there (R99, R100). -/
theorem rd_of_isSome {a : Addr} {s : State} (h : (memByte s a).isSome = true) : rd a s = (s.byteAt a, tickCycle s) :=
  routeRead_mem (((ReadKeeps.tickCycle s).memByte a).trans (memByte_isSome h))

/-- A vector in memory is loaded without a new edge (R403, R410). -/
theorem State.NoEdge.loadVector {s : State} (h : s.NoEdge 6) {vec : Addr}
    (low : (memByte s vec).isSome = true) (high : (memByte s (vec + 1)).isSome = true) :
    (loadVector vec s).intr.nmiLatched = s.intr.nmiLatched := by
  have afterLow : (rd vec s).2 = Machine.tickCycle s := by rw [rd_of_isSome low]
  have afterHigh : (rd (vec + 1) (Machine.tickCycle s)).2 = Machine.tickCycle (Machine.tickCycle s) := by
    rw [rd_of_isSome (by rwa [(ReadKeeps.tickCycle s).memByte])]
  obtain ⟨quiet, first⟩ := h.tickCycle (n := 3) (by decide)
  obtain ⟨-, second⟩ := quiet.tickCycle (n := 0) (by decide)
  rw [Machine.loadVector, setPc_intr, afterLow, afterHigh, second, first]

/-- Both vectors of an entry lie in program memory (R401). -/
theorem chosenVector_isSome (s t : State) :
    (memByte t (chosenVector s)).isSome = true ∧ (memByte t (chosenVector s + 1)).isSome = true := by
  unfold chosenVector
  split_ifs <;> exact ⟨memByte_isSome_high t (by decide), memByte_isSome_high t (by decide)⟩

/-- Behind the choice of the vector the latch is clear, and without an edge in the 9 dots left it stays clear (R406, R410). -/
theorem State.NoEdge.vectorChosen {s : State} (h : s.NoEdge 9) (image : Byte) (p : Flags) :
    (Machine.loadVector (chosenVector s) (setP p (Machine.push image (clearLatch s)))).intr.nmiLatched = false := by
  have cleared : (clearLatch s).NoEdge 9 := h.of_eq rfl rfl
  obtain ⟨quiet, latch⟩ := cleared.push (n := 6) (by decide) image
  have quiet : (setP p (Machine.push image (clearLatch s))).NoEdge 6 := quiet.of_eq rfl rfl
  obtain ⟨low, high⟩ := chosenVector_isSome s (setP p (Machine.push image (clearLatch s)))
  rw [quiet.loadVector low high, setP_intr, latch, clearLatch_intr]

/-- An entry leaves the latch clear when no edge can come in its 15 dots (R403, R406, R410). -/
theorem enterInterrupt_nmiLatched (b : Bool) {s : State} (h : s.NoEdge 15) :
    (enterInterrupt b s).intr.nmiLatched = false :=
  ((h.push (by decide) _).1.push (by decide) _).1.vectorChosen _ _

/-- Settles O7: the latch is still set at the choice of the vector, behind the two pushes. -/
theorem latchedNmiTakesTheEntry : Obligations.LatchedNmiTakesTheEntry := by
  refine fun s b latched => ⟨?pc, fun quiet => enterInterrupt_nmiLatched b (quiet.imp_right .inl)⟩
  case pc =>
    obtain ⟨cpu, -⟩ := enterInterrupt_entered b s
    rw [cpu, push_nmiLatched _ (push_nmiLatched _ latched), if_pos rfl]

/-! ### The poll -/

/-- Settles O8: a poll sets the due request and nothing else. -/
theorem pollDecides : Obligations.PollDecides := poll_eq

end Sys2Proof.Machine
end

section
/-!
PROOFS. The writes of the PPU's registers 0 to 3, and the write that the warm-up drops (O39).
-/

namespace Sys2Proof.Machine

variable {r : Nat} {s : State}

theorem warmupDrops_iff : warmupDrops r s = true ↔ s.totalCycles < s.cfg.ppuWarmupCycles ∧ r ∈ [0, 1, 5, 6] := by
  simp [warmupDrops, or_assoc]

/-- A write that the warm-up drops only refreshes the open-bus byte (R464, R623). -/
theorem ppuWrite_of_dropped (h : warmupDrops r s = true) (v : Byte) : ppuWrite r v s = refreshLatch v s :=
  if_pos h

/-- Any other write has its register's effect behind the refresh (R464). -/
theorem ppuWrite_of_not_dropped (h : ¬ warmupDrops r s = true) (v : Byte) :
    ppuWrite r v s = ppuRegisterWrite r v (refreshLatch v s) :=
  if_neg h

theorem ppuWrite_of_warm (warm : s.cfg.ppuWarmupCycles ≤ s.totalCycles) (r : Nat) (v : Byte) :
    ppuWrite r v s = ppuRegisterWrite r v (refreshLatch v s) :=
  ppuWrite_of_not_dropped (fun drops => absurd (warmupDrops_iff.1 drops).1 (not_lt.2 warm)) v

/-- The warm-up does not concern the registers outside its list (R464). -/
theorem ppuWrite_of_not_mem (hr : r ∉ [0, 1, 5, 6]) (v : Byte) (s : State) :
    ppuWrite r v s = ppuRegisterWrite r v (refreshLatch v s) :=
  ppuWrite_of_not_dropped (fun drops => hr (warmupDrops_iff.1 drops).2) v

/-- The fields of a scroll register from the low end: five bits, five, two, three (R455). -/
theorem scrollAddr_getLsbD (fy : BitVec 3) (nt : BitVec 2) (cy cx : BitVec 5) (i : Nat) :
    (scrollAddr fy nt cy cx).getLsbD i = if i < 5 then cx.getLsbD i else if i - 5 < 5 then cy.getLsbD (i - 5)
      else if i - 5 - 5 < 2 then nt.getLsbD (i - 5 - 5) else fy.getLsbD (i - 5 - 5 - 2) := by
  rw [scrollAddr, BitVec.getLsbD_append, BitVec.getLsbD_append, BitVec.getLsbD_append]

/-- The nametable bits of a scroll register, replaced by the low bits of a byte (R455, R466). -/
theorem scrollAddr_nametable (t : VAddr) (v : Byte) :
    scrollAddr (fineY t) (v.extractLsb' 0 2) (coarseY t) (coarseX t) =
      (t &&& 0x73FF) ||| ((v &&& 3).setWidth 15 <<< 10) := by
  refine BitVec.eq_of_getLsbD_eq fun i hi => ?_
  rw [scrollAddr_getLsbD]
  interval_cases i <;> simp [fineY, coarseY, coarseX]

/-- Settles O39: the control register moves the nametable bits and the NMI line; the others only take the value. -/
theorem registerWrites : Obligations.RegisterWrites := by
  refine ⟨fun s v warm => ⟨?control, ?mask⟩, fun s v => ⟨?status, ?oamAddress⟩, fun s v cold r hr => ?dropped⟩
  case control => rw [ppuWrite_of_warm warm, ← scrollAddr_nametable]; rfl
  case mask => exact ppuWrite_of_warm warm 1 v
  case status => exact ppuWrite_of_not_mem (by decide) v s
  case oamAddress => exact ppuWrite_of_not_mem (by decide) v s
  case dropped => exact ppuWrite_of_dropped (warmupDrops_iff.2 ⟨cold, hr⟩) v

end Sys2Proof.Machine
end

section
/-!
PROOFS. The state after power-on (O56): the seven cycles of the reset dispatch pass over a resting PPU.
-/

namespace Sys2Proof.Machine

/-! ### Cycles that read memory over a resting PPU -/

/-- The state `n` cycles later with another register file. -/
def State.laterWith (n : Nat) (c : Regs) (s : State) : State := { s.later n with cpu := c }

section
variable {s : State} (rest : s.ppu.Resting) (line : s.intr.nmiLine = false) {n : Nat} (dots : s.ppu.dot + 3 * n < 330)
include rest line dots

theorem rd_laterWith (c : Regs) {a : Addr} (h : (memByte s a).isSome = true) :
    rd a (s.laterWith n c) = (s.byteAt a, s.laterWith (n + 1) c) :=
  rd_resting (s := s.laterWith n c) (later_resting rest n) dots line h

theorem dummyFetch_laterWith (c : Regs) (h : (memByte s c.pc).isSome = true) :
    dummyFetch (s.laterWith n c) = s.laterWith (n + 1) c :=
  congrArg Prod.snd (rd_laterWith rest line dots c h)

/-- The pushes of the reset dispatch are reads: only the pointer moves (R404). -/
theorem decS_dummyStack_laterWith (c : Regs) :
    decS (dummyStack (s.laterWith n c)) = s.laterWith (n + 1) { c with s := c.s - 1 } := by
  have h : (memByte s (stackAddr (s.laterWith n c))).isSome = true := by
    rw [memByte, if_pos (stackAddr_le _)]
    rfl
  rw [dummyStack, rd_laterWith rest line dots c h]
  rfl

end

theorem loadVector_laterWith {s : State} (rest : s.ppu.Resting) (line : s.intr.nmiLine = false) {n : Nat}
    (dots : s.ppu.dot + 3 * (n + 1) < 330) (c : Regs) {vec : Addr} (low : (memByte s vec).isSome = true)
    (high : (memByte s (vec + 1)).isSome = true) :
    loadVector vec (s.laterWith n c) =
      s.laterWith (n + 2) { c with pc := word (s.byteAt (vec + 1)) (s.byteAt vec) } := by
  rw [loadVector, rd_laterWith rest line (by omega) c low]
  dsimp only
  rw [rd_laterWith rest line dots c high]
  rfl

/-! ### The reset dispatch -/

/-- The reset dispatch over a resting PPU: seven cycles, S down by three, I set, the pc loaded (R404). -/
theorem resetDispatch_resting {s : State} (rest : s.ppu.Resting) (line : s.intr.nmiLine = false)
    (dots : s.ppu.dot < 300) (pc : (memByte s s.cpu.pc).isSome = true) :
    resetDispatch s = s.laterWith 7 { s.cpu with
      s := s.cpu.s - 3
      p := { s.cpu.p with i := true }
      pc := word (s.byteAt 0xFFFD) (s.byteAt 0xFFFC) } := by
  have lead : dummyFetch (dummyFetch s) = s.laterWith 2 s.cpu := by
    rw [show dummyFetch s = s.laterWith 1 s.cpu from dummyFetch_laterWith (n := 0) rest line (by omega) s.cpu pc,
      dummyFetch_laterWith rest line (by omega) _ pc]
  have pointer : s.cpu.s - 3 = s.cpu.s - 1 - 1 - 1 := (sub_one_one_one _).symm
  rw [resetDispatch, lead, pointer]
  dsimp only
  rw [decS_dummyStack_laterWith rest line (by omega), decS_dummyStack_laterWith rest line (by omega),
    decS_dummyStack_laterWith rest line (by omega)]
  exact loadVector_laterWith (vec := resetVector) rest line (by omega) _ (memByte_isSome_high s (by decide))
    (memByte_isSome_high s (by decide))

/-! ### Power-on -/

theorem powerOnState_resting (k : PowerOnInputs) : (powerOnState k).ppu.Resting := by constructor <;> rfl

/-- Power-on is the values of R621 seven cycles later, with the register file of the reset dispatch (R404, R620). -/
theorem powerOn_eq (k : PowerOnInputs) : powerOn k = (powerOnState k).laterWith 7 { State.reset.cpu with
    pc := word (readProgram k.cfg k.cart.atPowerOn 0xFFFD) (readProgram k.cfg k.cart.atPowerOn 0xFFFC) } := by
  have pointer : (powerOnState k).cpu.s - 3 = 0xFD := show (0 : Byte) - 3 = 0xFD by decide
  have start : (powerOnState k).ppu.dot < 300 := show 0 < 300 by decide
  rw [powerOn, resetDispatch_resting (powerOnState_resting k) rfl start rfl, pointer]
  rfl

/-- Settles O56: each piece of state is read off the one state that power-on gives. -/
theorem powerOn_state : Obligations.PowerOn := by
  intro k
  rw [powerOn_eq]
  exact ⟨rfl, rfl, rfl, rfl, rfl, rfl, rfl, rfl, rfl, rfl, rfl, rfl⟩

end Sys2Proof.Machine
end

section
/-!
PROOFS. The palette's mirrors (O42), the decay of the open-bus byte (O45), and which accesses are refused (O44).
-/

namespace Sys2Proof.Machine

/-! ### Palette addresses -/

/-- The cell of a palette address in numbers: the low five bits, without bit 4 in a multiple of 4 (R452). -/
theorem palidx_eq (a : PAddr) : palidx a = if a.toNat % 4 = 0 then a.toNat % 16 else a.toNat % 32 := by
  have low : (a &&& 0x1F).toNat = a.toNat % 32 := (BitVec.toNat_and ..).trans (Nat.and_two_pow_sub_one_eq_mod a.toNat 5)
  have folded : palidx a = palidx (a &&& 0x1F) := by simp [palidx, BitVec.and_assoc]
  have cells : ∀ k : Fin 32, palidx (BitVec.ofNat 14 k) = if k.val % 4 = 0 then k.val % 16 else k.val := by decide
  have small : a &&& 0x1F = BitVec.ofNat 14 (a.toNat % 32) := by
    rw [← low, BitVec.ofNat_toNat, BitVec.setWidth_eq]
  rw [folded, small, cells ⟨a.toNat % 32, Nat.mod_lt _ (by decide)⟩]
  dsimp only
  split_ifs <;> omega

theorem vramWritePpu_palette (c : Cartridge) (p : Ppu) {a : PAddr} (h : 0x3F00 ≤ a.toNat) (v : Byte) :
    vramWritePpu c p a v = { p with palette := writeCell p.palette (palidx a) (v.setWidth 6) } := by
  rw [vramWritePpu, if_neg (by omega), if_neg (by omega)]

/-- Settles O42: a write changes the entries of one cell, and `palidx_eq` says which addresses share it. -/
theorem paletteMirrors : Obligations.PaletteMirrors := by
  intro c p a b v ha _
  have same : palidx b = palidx a ↔
      a.toNat % 32 = b.toNat % 32 ∨ (a.toNat % 4 = 0 ∧ a.toNat % 16 = b.toNat % 16) := by
    rw [palidx_eq, palidx_eq]
    split_ifs <;> omega
  simp [vramWritePpu_palette c p ha, Ppu.paletteAt, same]

/-! ### The decay of the open-bus byte -/

/-- After `n` counts the timer is down by `n`, and a timer that ran out has cleared the byte (R474). -/
theorem decayStep_iterate (p : Ppu) (n : Nat) : Ppu.decayStep^[n] p = { p with
    decayTimer := p.decayTimer - n
    ioLatch := if 0 < p.decayTimer ∧ p.decayTimer ≤ n then 0 else p.ioLatch } := by
  induction n with
  | zero =>
    have running : ¬ (0 < p.decayTimer ∧ p.decayTimer ≤ 0) := by omega
    rw [if_neg running]
    rfl
  | succ n ih =>
    rw [Function.iterate_succ_apply', ih, decayStep_eq]
    have ranOut : (p.decayTimer - n = 1 ∨ 0 < p.decayTimer ∧ p.decayTimer ≤ n) ↔
        0 < p.decayTimer ∧ p.decayTimer ≤ n + 1 := by omega
    simp only [← ite_or, ranOut]
    rfl

/-- Settles O45: of the counts from 7777 on, the 7777th is the one that empties the timer. -/
theorem openBusByteDecays : Obligations.OpenBusByteDecays := by
  intro p n refreshed
  rw [decayStep_iterate, refreshed]
  refine ⟨?_, rfl⟩
  by_cases early : n < 7777
  · simp [early, Nat.not_le.2 early]
  · simp [early, Nat.not_lt.1 early]

/-! ### The refusals -/

theorem oamdataRead_refused {s : State} (h : s.refused = none) : (oamdataRead s).2.refused =
    if s.ppu.renderingActive then some .oamAccessDuringRendering else none := by
  unfold oamdataRead
  split_ifs <;> simp [h]

theorem dataRead_refused {s : State} (h : s.refused = none) : (dataRead s).2.refused =
    if s.ppu.renderingActive then some .vramAccessDuringRendering else none := by
  unfold dataRead
  dsimp only
  split_ifs <;> simp [h]

theorem oamdataWrite_refused {s : State} (h : s.refused = none) (v : Byte) : (oamdataWrite v s).refused =
    if s.ppu.renderingActive then some .oamAccessDuringRendering else none := by
  unfold oamdataWrite
  split_ifs <;> simp [h]

theorem dataWrite_refused {s : State} (h : s.refused = none) (v : Byte) : (dataWrite v s).refused =
    if s.ppu.renderingActive then some .vramAccessDuringRendering else none := by
  unfold dataWrite
  split_ifs <;> simp [h]

/-- The refusal of an access to PPU register `r`: the two data ports have one each, while rendering is active (R481). -/
def portRefusal (active : Bool) (r : Nat) : Option Refusal :=
  if r = 4 then (if active then some .oamAccessDuringRendering else none)
  else if r = 7 then (if active then some .vramAccessDuringRendering else none) else none

theorem portRefusal_of_ne {r : Nat} (h4 : r ≠ 4) (h7 : r ≠ 7) (active : Bool) : portRefusal active r = none := by
  simp [portRefusal, h4, h7]

theorem ppuRead_refused {s : State} (h : s.refused = none) (r : Nat) :
    (ppuRead r s).2.refused = portRefusal s.ppu.renderingActive r := by
  unfold ppuRead
  split_ifs with r2 r4 r7
  · rw [portRefusal_of_ne (by omega) (by omega)]
    exact h
  · rw [oamdataRead_refused h, portRefusal, if_pos r4]
  · rw [dataRead_refused h, portRefusal, if_neg r4, if_pos r7]
  · rw [portRefusal_of_ne r4 r7]
    exact h

theorem ppuWrite_refused {s : State} (h : s.refused = none) (r : Nat) (v : Byte) :
    (ppuWrite r v s).refused = portRefusal s.ppu.renderingActive r := by
  by_cases port : r = 4 ∨ r = 7
  · rcases port with rfl | rfl <;> rw [ppuWrite_of_not_mem (by decide)]
    · exact oamdataWrite_refused (s := refreshLatch v s) h v
    · exact dataWrite_refused (s := refreshLatch v s) h v
  · rw [portRefusal_of_ne (by omega) (by omega), ppuWrite]
    split_ifs
    · exact h
    · rw [ppuRegisterWrite_refused v (.inl (by omega))]
      exact h

/-- Outside the PPU's registers nothing refuses (R481). -/
theorem route_refused_of_not_register {a : Addr} (h : ¬ (0x2000 ≤ a.toNat ∧ a.toNat ≤ 0x3FFF)) (v : Byte)
    (s : State) : (routeRead a s).2.refused = s.refused ∧ (routeWrite a v s).refused = s.refused := by
  have noPort : dataPort a = false := by
    simp [dataPort]
    omega
  exact ⟨routeRead_refused (.inl noPort), routeWrite_refused v (.inl noPort)⟩

/-- Settles O44: the routing reaches the registers alone, and of these the two data ports refuse. -/
theorem dataPortsRefuseWhileRendering : Obligations.DataPortsRefuseWhileRendering := by
  intro s a v unmarked
  dsimp only
  have activeEq : (s.ppu.mask.getLsbD 3 && s.ppu.mask.getLsbD 4 && (s.ppu.scanline ≤ 239 || s.ppu.scanline = 261)) =
    s.ppu.renderingActive := rfl
  rw [activeEq]
  by_cases register : 0x2000 ≤ a.toNat ∧ a.toNat ≤ 0x3FFF
  · obtain ⟨h1, h2⟩ := register
    rw [routeRead_register s h1 h2, routeWrite_register v s h1 h2, ppuRead_refused unmarked, ppuWrite_refused unmarked]
    cases active : s.ppu.renderingActive <;> simp [portRefusal, h1, h2]
  · obtain ⟨read, write⟩ := route_refused_of_not_register register v s
    rw [read, write, unmarked]
    have outside : (s.ppu.renderingActive && decide (0x2000 ≤ a.toNat) && decide (a.toNat ≤ 0x3FFF)) = false := by
      simp
      omega
    simp only [outside]
    exact ⟨rfl, rfl⟩

end Sys2Proof.Machine
end

section
/-!
PROOFS. The scroll registers: their fields in numbers, the two-part writes (O40), and the increments and copies (O47).
-/

namespace Sys2Proof.Machine

/-! ### The fields of a scroll register -/

/-- Concatenation in numbers. -/
theorem toNat_append_add {m n : Nat} (x : BitVec m) (y : BitVec n) : (x ++ y).toNat = 2 ^ n * x.toNat + y.toNat := by
  rw [BitVec.toNat_append, Nat.shiftLeft_eq, Nat.mul_comm, ← Nat.two_pow_add_eq_or_of_lt y.isLt]

section
variable (fy : BitVec 3) (nt : BitVec 2) (cy cx : BitVec 5) (v : VAddr)

theorem scrollAddr_toNat :
    (scrollAddr fy nt cy cx).toNat = 4096 * fy.toNat + 1024 * nt.toNat + 32 * cy.toNat + cx.toNat := by
  simp only [scrollAddr, toNat_append_add]
  omega

theorem fineY_toNat : (fineY v).toNat = v.toNat / 4096 := by
  have := v.isLt
  simp [fineY, Nat.shiftRight_eq_div_pow]
  omega

theorem nametable_toNat : (nametable v).toNat = v.toNat / 1024 % 4 := by
  simp [nametable, Nat.shiftRight_eq_div_pow]

theorem coarseY_toNat : (coarseY v).toNat = v.toNat / 32 % 32 := by
  simp [coarseY, Nat.shiftRight_eq_div_pow]

theorem coarseX_toNat : (coarseX v).toNat = v.toNat % 32 := by
  simp [coarseX]

@[simp] theorem fineY_scrollAddr : fineY (scrollAddr fy nt cy cx) = fy := by
  refine BitVec.eq_of_toNat_eq ?_
  rw [fineY_toNat, scrollAddr_toNat]
  omega

@[simp] theorem nametable_scrollAddr : nametable (scrollAddr fy nt cy cx) = nt := by
  refine BitVec.eq_of_toNat_eq ?_
  rw [nametable_toNat, scrollAddr_toNat]
  omega

@[simp] theorem coarseY_scrollAddr : coarseY (scrollAddr fy nt cy cx) = cy := by
  refine BitVec.eq_of_toNat_eq ?_
  rw [coarseY_toNat, scrollAddr_toNat]
  omega

@[simp] theorem coarseX_scrollAddr : coarseX (scrollAddr fy nt cy cx) = cx := by
  refine BitVec.eq_of_toNat_eq ?_
  rw [coarseX_toNat, scrollAddr_toNat]
  omega

/-- A scroll register is the join of its fields (R455). -/
theorem scrollAddr_fields : scrollAddr (fineY v) (nametable v) (coarseY v) (coarseX v) = v := by
  refine BitVec.eq_of_toNat_eq ?_
  rw [scrollAddr_toNat, fineY_toNat, nametable_toNat, coarseY_toNat, coarseX_toNat]
  omega

/-- A mask over a scroll register is a mask over each of its fields (R455). -/
theorem scrollAddr_and (fy' : BitVec 3) (nt' : BitVec 2) (cy' cx' : BitVec 5) :
    scrollAddr fy nt cy cx &&& scrollAddr fy' nt' cy' cx' =
      scrollAddr (fy &&& fy') (nt &&& nt') (cy &&& cy') (cx &&& cx') :=
  BitVec.and_append.trans (by rw [BitVec.and_append, BitVec.and_append, scrollAddr])

theorem scrollAddr_xor (fy' : BitVec 3) (nt' : BitVec 2) (cy' cx' : BitVec 5) :
    scrollAddr fy nt cy cx ^^^ scrollAddr fy' nt' cy' cx' =
      scrollAddr (fy ^^^ fy') (nt ^^^ nt') (cy ^^^ cy') (cx ^^^ cx') :=
  BitVec.xor_append.trans (by rw [BitVec.xor_append, BitVec.xor_append, scrollAddr])

/-- Scroll registers are equal when their fields are, in numbers. -/
theorem eq_scrollAddr_iff : v = scrollAddr fy nt cy cx ↔
    v.toNat = 4096 * fy.toNat + 1024 * nt.toNat + 32 * cy.toNat + cx.toNat := by
  rw [← scrollAddr_toNat, BitVec.toNat_inj]

end

/-! ### The two-part writes -/

section
variable {s : State} (warm : s.cfg.ppuWarmupCycles ≤ s.totalCycles) (v : Byte)
include warm

theorem ppuWrite_five : ppuWrite 5 v s = setScroll (Scroll.scrollWrite v) (refreshLatch v s) := ppuWrite_of_warm warm 5 v

theorem ppuWrite_six : ppuWrite 6 v s = setScroll (Scroll.addrWrite v) (refreshLatch v s) := ppuWrite_of_warm warm 6 v

theorem ppuWrite_five_five (u : Byte) : (ppuWrite 5 v (ppuWrite 5 u s)).ppu.scroll =
    (s.ppu.scroll.scrollWrite u).scrollWrite v := by
  rw [ppuWrite_five warm u]
  exact congrArg (fun k : State => k.ppu.scroll) (ppuWrite_five (s := setScroll _ (refreshLatch u s)) warm v)

theorem ppuWrite_six_six (u : Byte) : (ppuWrite 6 v (ppuWrite 6 u s)).ppu.scroll =
    (s.ppu.scroll.addrWrite u).addrWrite v := by
  rw [ppuWrite_six warm u]
  exact congrArg (fun k : State => k.ppu.scroll) (ppuWrite_six (s := setScroll _ (refreshLatch u s)) warm v)

end

/-- The first scroll write's coarse X, as a mask over t (R455, R470). -/
theorem scrollAddr_coarseX (t : VAddr) (u : Byte) :
    scrollAddr (fineY t) (nametable t) (coarseY t) (u.extractLsb' 3 5) = (t &&& 0x7FE0) ||| (u >>> 3).setWidth 15 := by
  refine BitVec.eq_of_getLsbD_eq fun i hi => ?_
  rw [scrollAddr_getLsbD]
  interval_cases i <;> simp [fineY, nametable, coarseY]

/-- The fields of t that two scroll writes leave and set (R455, R470). -/
theorem scrollAddr_scroll (t : VAddr) (u v : Byte) :
    scrollAddr (v.extractLsb' 0 3) (nametable t) (v.extractLsb' 3 5) (u.extractLsb' 3 5) =
      (t &&& 0x0C00) ||| ((v &&& 7).setWidth 15 <<< 12) ||| ((v >>> 3).setWidth 15 <<< 5) ||| (u >>> 3).setWidth 15 := by
  refine BitVec.eq_of_getLsbD_eq fun i hi => ?_
  rw [scrollAddr_getLsbD]
  interval_cases i <;> simp [nametable]

/-- The low three bits of a byte. -/
theorem extractLsb'_low3 (u : Byte) : u.extractLsb' 0 3 = (u &&& 7).setWidth 3 := by
  refine BitVec.eq_of_getLsbD_eq fun i hi => ?_
  interval_cases i <;> simp

/-- The high byte's six bits of the first address write, as a mask over t (R473). -/
theorem addressHigh_eq (t : VAddr) (u : Byte) :
    (0#1 ++ u.extractLsb' 0 6 ++ t.extractLsb' 0 8 : VAddr) = (t &&& 0x00FF) ||| ((u &&& 0x3F).setWidth 15 <<< 8) := by
  refine BitVec.eq_of_getLsbD_eq fun i hi => ?_
  rw [BitVec.getLsbD_append, BitVec.getLsbD_append]
  interval_cases i <;> simp

/-- The address of two address writes (R473). -/
theorem address_eq (t : VAddr) (u v : Byte) :
    (0#1 ++ u.extractLsb' 0 6 ++ t.extractLsb' 0 8 : VAddr).extractLsb' 8 7 ++ v =
      ((u &&& 0x3F).setWidth 15 <<< 8) ||| v.setWidth 15 := by
  refine BitVec.eq_of_getLsbD_eq fun i hi => ?_
  rw [BitVec.getLsbD_append, BitVec.getLsbD_extractLsb', BitVec.getLsbD_append, BitVec.getLsbD_append]
  interval_cases i <;> simp

section
variable {k : Scroll} (clear : k.w = false) (u v : Byte)
include clear

theorem scrollWrite_first : k.scrollWrite u =
    { k with t := (k.t &&& 0x7FE0) ||| (u >>> 3).setWidth 15, x := (u &&& 7).setWidth 3, w := true } := by
  rw [Scroll.scrollWrite, clear, ← scrollAddr_coarseX, ← extractLsb'_low3]
  rfl

theorem scrollWrite_second : (k.scrollWrite u).scrollWrite v = { k with
    t := (k.t &&& 0x0C00) ||| ((v &&& 7).setWidth 15 <<< 12) ||| ((v >>> 3).setWidth 15 <<< 5) ||| (u >>> 3).setWidth 15
    x := (u &&& 7).setWidth 3
    w := false } := by
  rw [← scrollAddr_scroll, scrollWrite_first clear, ← scrollAddr_coarseX]
  simp [Scroll.scrollWrite]

theorem addrWrite_first : k.addrWrite u =
    { k with t := (k.t &&& 0x00FF) ||| ((u &&& 0x3F).setWidth 15 <<< 8), w := true } := by
  rw [Scroll.addrWrite, clear, ← addressHigh_eq]
  rfl

theorem addrWrite_second : (k.addrWrite u).addrWrite v = { k with
    t := ((u &&& 0x3F).setWidth 15 <<< 8) ||| v.setWidth 15
    v := ((u &&& 0x3F).setWidth 15 <<< 8) ||| v.setWidth 15
    w := false } := by
  rw [addrWrite_first clear, ← address_eq k.t, ← addressHigh_eq]
  rfl

end

/-- Settles O40: each write is a change of the scroll state, whose fields the masks name. -/
theorem twoPartWrites : Obligations.TwoPartWrites := by
  intro s u v warm clear
  refine ⟨?scroll, ?scrolls, ?address, ?addresses⟩
  case scroll =>
    rw [ppuWrite_five warm u]
    exact scrollWrite_first clear u
  case scrolls =>
    rw [ppuWrite_five_five warm]
    exact scrollWrite_second clear u v
  case address =>
    rw [ppuWrite_six warm u]
    exact addrWrite_first clear u
  case addresses =>
    rw [ppuWrite_six_six warm]
    exact addrWrite_second clear u v

/-! ### The increments -/

/-- Coarse X and the nametable bit above it wrap together (R516). -/
theorem incrementCoarseX_eq (v : VAddr) :
    incrementCoarseX v = if v.toNat % 32 = 31 then v ^^^ 0x041F else v + 1 := by
  have last : coarseX v = 31 ↔ v.toNat % 32 = 31 := by
    rw [← coarseX_toNat, ← BitVec.toNat_inj]
    rfl
  simp only [incrementCoarseX, last]
  split_ifs with h
  · have mask : (0x041F : VAddr) = scrollAddr 0 1 0 31 := by decide
    have wrap : coarseX v ^^^ 31 = 0 := by rw [last.2 h]; decide
    conv_rhs => rw [← scrollAddr_fields v, mask, scrollAddr_xor, wrap]
    simp
  · refine ((eq_scrollAddr_iff ..).2 ?_).symm
    have := v.isLt
    have step : (coarseX v + 1).toNat = v.toNat % 32 + 1 := by
      rw [BitVec.toNat_add, coarseX_toNat]
      simp
      omega
    rw [step, fineY_toNat, nametable_toNat, coarseY_toNat, BitVec.toNat_add]
    simp
    omega

theorem fineY_eq_7_iff (v : VAddr) : fineY v = 7 ↔ 0x7000 ≤ v.toNat := by
  have := v.isLt
  rw [← BitVec.toNat_inj, fineY_toNat]
  simp
  omega

/-- Within a tile row Y goes through fine Y (R517). -/
theorem incrementY_fine {v : VAddr} (h : v.toNat < 0x7000) : incrementY v = v + 0x1000 := by
  rw [incrementY, if_pos (mt (fineY_eq_7_iff v).1 (by omega))]
  refine ((eq_scrollAddr_iff ..).2 ?_).symm
  have step : (fineY v + 1).toNat = v.toNat / 4096 + 1 := by
    rw [BitVec.toNat_add, fineY_toNat]
    simp
    omega
  rw [step, nametable_toNat, coarseY_toNat, coarseX_toNat, BitVec.toNat_add]
  simp
  omega

/-- Y leaves fine Y and coarse Y at 0 (R517). -/
theorem and_0C1F (v : VAddr) : v &&& 0x0C1F = scrollAddr 0 (nametable v) 0 (coarseX v) := by
  have mask : (0x0C1F : VAddr) = scrollAddr 0 3#2 0 31#5 := by decide
  conv_lhs => rw [← scrollAddr_fields v, mask, scrollAddr_and]
  simp [show (3#2) = BitVec.allOnes 2 by decide, show (31#5) = BitVec.allOnes 5 by decide, -BitVec.reduceAllOnes]

theorem and_0FFF_toNat (v : VAddr) : (v &&& 0x0FFF).toNat = v.toNat % 4096 :=
  (BitVec.toNat_and ..).trans (Nat.and_two_pow_sub_one_eq_mod v.toNat 12)

/-- Behind a tile row Y goes on to the next coarse Y, at 29 into the other nametable and at 31 without (R517). -/
theorem incrementY_coarse {v : VAddr} (h : 0x7000 ≤ v.toNat) : incrementY v =
    if v.toNat / 32 % 32 = 29 then (v &&& 0x0C1F) ^^^ 0x0800
    else if v.toNat / 32 % 32 = 31 then v &&& 0x0C1F else (v &&& 0x0FFF) + 0x20 := by
  have row : ∀ k : BitVec 5, coarseY v = k ↔ v.toNat / 32 % 32 = k.toNat := fun k => by
    rw [← coarseY_toNat, BitVec.toNat_inj]
  simp only [incrementY, (fineY_eq_7_iff v).2 h, ne_eq, not_true_eq_false, if_false, row]
  refine ite_congr rfl (fun _ => ?_) (fun _ => ite_congr rfl (fun _ => (and_0C1F v).symm) (fun last => ?_))
  · have mask : (0x0800 : VAddr) = scrollAddr 0 2 0 0 := by decide
    rw [and_0C1F, mask, scrollAddr_xor]
    simp
  · refine ((eq_scrollAddr_iff ..).2 ?_).symm
    have step : (coarseY v + 1).toNat = v.toNat / 32 % 32 + 1 := by
      rw [BitVec.toNat_add, coarseY_toNat]
      simp at last ⊢
      omega
    rw [step, nametable_toNat, coarseX_toNat, BitVec.toNat_add, and_0FFF_toNat]
    simp
    omega

/-! ### The copies -/

theorem copyHorizontal_getLsbD (t v : VAddr) (k : Nat) : (copyHorizontal t v).getLsbD k =
    if k < 5 ∨ k = 10 then t.getLsbD k else v.getLsbD k := by
  by_cases inside : k < 15
  · interval_cases k <;> simp [copyHorizontal]
  · have outside : ∀ w : VAddr, w.getLsbD k = false := fun w => BitVec.getLsbD_of_ge w k (by omega)
    simp [outside]

theorem copyVertical_getLsbD (t v : VAddr) (k : Nat) : (copyVertical t v).getLsbD k =
    if (5 ≤ k ∧ k < 10) ∨ (11 ≤ k ∧ k < 15) then t.getLsbD k else v.getLsbD k := by
  by_cases inside : k < 15
  · interval_cases k <;> simp [copyVertical]
  · have outside : ∀ w : VAddr, w.getLsbD k = false := fun w => BitVec.getLsbD_of_ge w k (by omega)
    simp [outside]

/-- Settles O47: the increments act on the fields, the copies on the bits of the masks. -/
theorem scrollMoves : Obligations.ScrollMoves := fun t v =>
  ⟨incrementCoarseX_eq v, incrementY_fine, incrementY_coarse, copyHorizontal_getLsbD t v, copyVertical_getLsbD t v⟩

end Sys2Proof.Machine
end

section
/-!
PROOFS. The PPU's registers: the status read (O38), OAM data (O43) and the data port (O41).
-/

namespace Sys2Proof.Machine

/-! ### The status read -/

/-- A set bit as a summand. -/
theorem toNat_ofBool_num (b : Bool) : (BitVec.ofBool b).toNat = num b := by
  cases b <;> rfl

/-- Three flags over five bits, in numbers (R465). -/
theorem flags_append (x y z : Bool) (k : BitVec 5) :
    BitVec.ofBool x ++ BitVec.ofBool y ++ BitVec.ofBool z ++ k =
      BitVec.ofNat 8 (128 * num x + 64 * num y + 32 * num z + k.toNat) := by
  refine BitVec.eq_of_toNat_eq ?_
  have hx := num_le x
  have hy := num_le y
  have hz := num_le z
  simp only [toNat_append_add, toNat_ofBool_num, BitVec.toNat_ofNat]
  omega

/-- The suppression window is dots 1 to 3 of line 241 (R479). -/
theorem suppression_iff (line dot : Nat) : (decide (line = 241) && decide (1 ≤ dot) && decide (dot ≤ 3)) = true ↔
    line = 241 ∧ (dot = 1 ∨ dot = 2 ∨ dot = 3) := by
  simp only [Bool.and_eq_true, decide_eq_true_eq]
  omega

/-- Settles O38: the NMI line falls with vblank, so the latch only keeps or loses its request. -/
theorem statusRead_effect : Obligations.StatusRead := by
  refine fun s => ⟨?value, rfl, rfl, ?latch, rfl, rfl, rfl⟩
  case value =>
    have low : (s.ppu.ioLatch.extractLsb' 0 5).toNat = s.ppu.ioLatch.toNat % 32 := by simp
    rw [← low, ← flags_append]
    rfl
  case latch =>
    show ((s.intr.nmiLatched || false) && !(decide (s.ppu.scanline = 241) && decide (1 ≤ s.ppu.dot) &&
      decide (s.ppu.dot ≤ 3))) = _
    rw [Bool.or_false]
    split_ifs with window
    · rw [(suppression_iff _ _).2 window]
      simp
    · rw [Bool.eq_false_iff.2 (mt (suppression_iff _ _).1 window)]
      simp

/-! ### OAM data -/

/-- The byte that a read masks is the third of its sprite's four (R469). -/
theorem and_3_eq_2_iff (a : Byte) : a &&& 3 = 2 ↔ a.toNat % 4 = 2 := by
  have low : (a &&& 3).toNat = a.toNat % 4 := (BitVec.toNat_and ..).trans (Nat.and_two_pow_sub_one_eq_mod a.toNat 2)
  rw [← low, ← BitVec.toNat_inj]
  rfl

theorem oamdataRead_of_inactive {s : State} (h : s.ppu.renderingActive = false) : oamdataRead s =
    (if s.ppu.oamaddr &&& 3 = 2 then readCell s.ppu.oam s.ppu.oamaddr.toNat &&& 0xE3
      else readCell s.ppu.oam s.ppu.oamaddr.toNat, s) := by
  rw [oamdataRead, h]
  rfl

/-- A write to OAM data behind the refresh of the open-bus byte (R464, R469). -/
theorem ppuWrite_oamData {s : State} (h : s.ppu.renderingActive = false) (v : Byte) : ppuWrite 4 v s = { s with
    ppu := { s.ppu with
      oam := writeCell s.ppu.oam s.ppu.oamaddr.toNat v
      oamaddr := s.ppu.oamaddr + 1
      ioLatch := v
      decayTimer := 7777 } } := by
  have inactive : (refreshLatch v s).ppu.renderingActive = false := h
  rw [ppuWrite_of_not_mem (by decide)]
  show oamdataWrite v (refreshLatch v s) = _
  rw [oamdataWrite, inactive]
  rfl

/-- Settles O43: the read and the write of OAM data with rendering inactive. -/
theorem oamData : Obligations.OamData := by
  intro s v inactive
  have next : s.ppu.oamaddr + 1 = BitVec.ofNat 8 (s.ppu.oamaddr.toNat + 1) := by
    rw [BitVec.ofNat_add, BitVec.ofNat_toNat, BitVec.setWidth_eq]
    rfl
  rw [ppuWrite_oamData inactive, ← next]
  refine ⟨?_, rfl, rfl⟩
  simp only [← and_3_eq_2_iff]
  exact oamdataRead_of_inactive inactive

/-! ### The data port -/

/-- The address of the data port is v without its top bit (R455, R471). -/
theorem portAddr_toNat (p : Ppu) : p.portAddr.toNat = p.scroll.v.toNat % 0x4000 := BitVec.toNat_setWidth ..

/-- Six bits of a palette entry under the two top bits of a byte (R471). -/
theorem entry_under_top_bits (e : Colour) (b : Byte) :
    (e.setWidth 8 ||| (b &&& 0xC0)).toNat = e.toNat + b.toNat / 64 * 64 := by
  have parts : e.setWidth 8 ||| (b &&& 0xC0) = b.extractLsb' 6 2 ++ e := by
    refine BitVec.eq_of_getLsbD_eq fun i hi => ?_
    rw [BitVec.getLsbD_append]
    interval_cases i <;> simp
  have := b.isLt
  rw [parts, toNat_append_add]
  simp [Nat.shiftRight_eq_div_pow]
  omega

section
variable {s : State} (inactive : s.ppu.renderingActive = false)
include inactive

theorem dataRead_below_palette (h : s.ppu.portAddr.toNat < 0x3F00) : dataRead s = (s.ppu.readBuffer,
    { s with ppu := ({ s.ppu with readBuffer := vramRead s.cart s.ppu s.ppu.portAddr }).stepPort }) := by
  simp [dataRead, inactive, Nat.not_le.2 h]

theorem dataRead_palette (h : 0x3F00 ≤ s.ppu.portAddr.toNat) : dataRead s =
    ((s.ppu.paletteAt s.ppu.portAddr).setWidth 8 ||| (s.ppu.ioLatch &&& 0xC0),
      { s with ppu := ({ s.ppu with readBuffer := vramRead s.cart s.ppu (s.ppu.portAddr - 0x1000) }).stepPort }) := by
  simp [dataRead, inactive, h]

/-- The data port steps v by the control register's increment, and a read does no more but fill the buffer (R471). -/
theorem dataRead_state : ∃ b, (dataRead s).2 = { s with ppu := ({ s.ppu with readBuffer := b }).stepPort } := by
  by_cases h : s.ppu.portAddr.toNat < 0x3F00
  · exact ⟨_, congrArg Prod.snd (dataRead_below_palette inactive h)⟩
  · exact ⟨_, congrArg Prod.snd (dataRead_palette inactive (Nat.not_lt.1 h))⟩

/-- A write to the data port behind the refresh of the open-bus byte (R464, R472). -/
theorem ppuWrite_data (v : Byte) : ppuWrite 7 v s = { s with
    cart := vramWriteCart s.cart s.ppu.portAddr v
    ppu := (vramWritePpu s.cart (refreshLatch v s).ppu s.ppu.portAddr v).stepPort } := by
  have inactive' : (refreshLatch v s).ppu.renderingActive = false := inactive
  rw [ppuWrite_of_not_mem (by decide)]
  show dataWrite v (refreshLatch v s) = _
  rw [dataWrite, inactive']
  rfl

end

/-- A nametable address reads CIRAM (R482). -/
theorem vramRead_nametable (c : Cartridge) (p : Ppu) {a : PAddr} (h1 : 0x2000 ≤ a.toNat) (h2 : a.toNat ≤ 0x3EFF) :
    vramRead c p a = readCell p.ciram (mirrorNametableAddress c a.toNat) := by
  rw [vramRead, if_neg (by omega), if_pos h2]

/-- Pattern addresses are the cartridge's, which stores where its graphics memory is RAM (R482, R574). -/
theorem vramWriteCart_eq (c : Cartridge) (a : PAddr) (v : Byte) : vramWriteCart c a v =
    if a.toNat ≤ 0x1FFF ∧ c.chrBanks = 0 then { c with chrRam := writeCell c.chrRam (chrAddr c a.toNat) v } else c := by
  unfold vramWriteCart writeGraphics
  split_ifs <;> simp_all

/-- Nametable and palette addresses are the PPU's (R482). -/
theorem vramWritePpu_eq (c : Cartridge) (p : Ppu) (a : PAddr) (v : Byte) : vramWritePpu c p a v = { p with
    ciram := if 0x2000 ≤ a.toNat ∧ a.toNat ≤ 0x3EFF then
      writeCell p.ciram (mirrorNametableAddress c a.toNat) v else p.ciram
    palette := if 0x3F00 ≤ a.toNat then writeCell p.palette (palidx a) (v.setWidth 6) else p.palette } := by
  unfold vramWritePpu
  by_cases pattern : a.toNat ≤ 0x1FFF
  · simp [pattern, show ¬ 0x2000 ≤ a.toNat by omega, show ¬ 0x3F00 ≤ a.toNat by omega]
  · by_cases table : a.toNat ≤ 0x3EFF
    · simp [pattern, table, show 0x2000 ≤ a.toNat by omega, show ¬ 0x3F00 ≤ a.toNat by omega]
    · simp [pattern, table, show 0x3F00 ≤ a.toNat by omega]

/-- Settles O41: a read is one of two, by the address; a write is one to the cartridge and one to the PPU. -/
theorem dataPort_readsAndWrites : Obligations.DataPort := by
  refine ⟨fun s inactive => ?read, fun s v inactive => ?write⟩
  case read =>
    have stepped : (ppuRead 7 s).2.ppu.scroll.v = s.ppu.scroll.v + s.ppu.increment ∧
        (ppuRead 7 s).2.refused = s.refused := by
      obtain ⟨b, after⟩ := dataRead_state inactive
      exact after ▸ ⟨rfl, rfl⟩
    simp only [← portAddr_toNat, BitVec.ofNat_toNat, BitVec.setWidth_eq]
    refine ⟨fun below => ?_, fun palette => ?_, stepped⟩
    · show (dataRead s).1 = _ ∧ (dataRead s).2.ppu.readBuffer = _
      rw [dataRead_below_palette inactive below]
      exact ⟨rfl, rfl⟩
    · show (dataRead s).1.toNat = _ ∧ (dataRead s).2.ppu.readBuffer = _
      have beneath : (s.ppu.portAddr - 0x1000).toNat = s.ppu.portAddr.toNat - 0x1000 :=
        BitVec.toNat_sub_of_le (Nat.le_trans (by decide) palette)
      have := s.ppu.portAddr.isLt
      rw [dataRead_palette inactive palette]
      refine ⟨entry_under_top_bits _ _, ?_⟩
      rw [← beneath]
      exact vramRead_nametable s.cart s.ppu (by omega) (by omega)
  case write =>
    have stepped : (ppuWrite 7 v s).ppu.scroll.v = s.ppu.scroll.v + s.ppu.increment := by
      rw [ppuWrite_data inactive, vramWritePpu_eq]
      rfl
    refine ⟨stepped, ?_⟩
    simp only [← portAddr_toNat, BitVec.ofNat_toNat, BitVec.setWidth_eq]
    rw [ppuWrite_data inactive, vramWritePpu_eq, vramWriteCart_eq]
    exact ⟨rfl, rfl, rfl, rfl, rfl, rfl⟩

end Sys2Proof.Machine
end

section
/-!
PROOFS. One tick of the PPU: the dot counter (O46), the frame flags and the NMI line (O37), sprite-zero hit (O49).
-/

namespace Sys2Proof.Machine

/-! ### The dot counter -/

theorem skipsDot_iff (p : Ppu) : p.skipsDot = true ↔
    p.scanline = 261 ∧ p.dot = 338 ∧ p.oddFrame = true ∧ p.renderingEnabled = true := by
  simp [Ppu.skipsDot, and_assoc]

/-- The counter after an advance: one dot further, and the ends of a line and of the frame (R476). -/
theorem advance_position (p : Ppu) :
    p.advance.dot = (if p.scanline = 261 ∧ p.dot = 338 ∧ p.oddFrame = true ∧ p.renderingEnabled = true then 340
      else if p.dot = 340 then 0 else p.dot + 1) ∧
    p.advance.scanline = (if p.dot = 340 then if p.scanline = 261 then 0 else p.scanline + 1 else p.scanline) ∧
    p.advance.oddFrame = (if p.dot = 340 ∧ p.scanline = 261 then !p.oddFrame else p.oddFrame) := by
  by_cases skips : p.skipsDot = true
  · have place := (skipsDot_iff p).1 skips
    simp [Ppu.advance, skips, place]
  · have place := mt (skipsDot_iff p).2 skips
    by_cases last : p.dot = 340
    · by_cases bottom : p.scanline = 261 <;> simp [Ppu.advance, skips, last, bottom]
    · simp [Ppu.advance, skips, last, if_neg place]

theorem ppuTick_position (s : State) : (ppuTick s).ppu.dot = s.ppu.advance.dot ∧
    (ppuTick s).ppu.scanline = s.ppu.advance.scanline ∧ (ppuTick s).ppu.oddFrame = s.ppu.advance.oddFrame := by
  obtain ⟨line, dot, parity⟩ := tick_position s.cfg s.cart s.ppu
  exact ⟨dot, line, parity⟩

/-- With rendering disabled a tick moves one dot on, modulo the dots of a frame (R476, R483). -/
theorem ppuTick_position_of_disabled {s : State} (disabled : s.ppu.renderingEnabled = false)
    (line : s.ppu.scanline ≤ 261) (dot : s.ppu.dot ≤ 340) :
    341 * (ppuTick s).ppu.scanline + (ppuTick s).ppu.dot = (341 * s.ppu.scanline + s.ppu.dot + 1) % 89342 ∧
      (ppuTick s).ppu.scanline ≤ 261 ∧ (ppuTick s).ppu.dot ≤ 340 := by
  obtain ⟨dotEq, lineEq, -⟩ := ppuTick_position s
  obtain ⟨dotEq', lineEq', -⟩ := advance_position s.ppu
  rw [dotEq, lineEq, dotEq', lineEq']
  simp only [disabled, Bool.false_eq_true, and_false, if_false]
  split_ifs <;> omega

/-- With rendering disabled the counter runs through all dots of the frame (R476, R483). -/
theorem ppuTick_iterate_position {s : State} (disabled : s.ppu.renderingEnabled = false)
    (line : s.ppu.scanline ≤ 261) (dot : s.ppu.dot ≤ 340) (n : Nat) :
    let t := ppuTick^[n] s
    t.ppu.renderingEnabled = false ∧ t.ppu.scanline ≤ 261 ∧ t.ppu.dot ≤ 340 ∧
      341 * t.ppu.scanline + t.ppu.dot = (341 * s.ppu.scanline + s.ppu.dot + n) % 89342 := by
  induction n with
  | zero =>
    dsimp only [Function.iterate_zero, id]
    exact ⟨disabled, line, dot, by omega⟩
  | succ n ih =>
    obtain ⟨disabled', line', dot', position⟩ := ih
    obtain ⟨position', next⟩ := ppuTick_position_of_disabled disabled' line' dot'
    dsimp only
    rw [Function.iterate_succ_apply']
    exact ⟨by simp [disabled'], next.1, next.2, by omega⟩

/-- Settles O46: one tick is one advance of the counter; with rendering disabled the ticks add up. -/
theorem dotCounter : Obligations.DotCounter := by
  refine ⟨fun s => ?_, fun s n disabled line dot => ?_⟩
  · obtain ⟨dotEq, lineEq, parityEq⟩ := ppuTick_position s
    dsimp only
    rw [dotEq, lineEq, parityEq]
    exact advance_position s.ppu
  · obtain ⟨-, -, inLine, position⟩ := ppuTick_iterate_position disabled line dot n
    exact ⟨position, inLine⟩

/-! ### The dot's frame events -/

/-- The rendering lines of R511 do nothing to what the pipelines do not hold. -/
theorem executeDot_field {α : Type} (g : Ppu → α)
    (h : ∀ p b sp sc ov oa, g { p with bg := b, spr := sp, scroll := sc, spriteOverflow := ov, oamaddr := oa } = g p)
    (cfg : Params) (c : Cartridge) (p : Ppu) : g (p.executeDot cfg c) = g (p.frameDot cfg) := by
  unfold Ppu.executeDot doIf
  dsimp only
  split_ifs
  · exact renderDot_field g h c _
  · rfl

/-- A visible dot's one frame event is its pixel (R511). -/
theorem frameDot_visible (cfg : Params) {p : Ppu} (line : p.scanline ≤ 239) (h1 : 1 ≤ p.dot) (h2 : p.dot ≤ 256) :
    p.frameDot cfg = p.outputPixel cfg (p.dot - 1) := by
  have n0 : p.dot ≠ 0 := by omega
  simp [Ppu.frameDot, doIf, line, h1, h2, n0]

/-- Any other dot's frame events are those at dot 0 of lines 240, 241 and 261 (R511). -/
theorem frameDot_not_visible (cfg : Params) {p : Ppu} (h : ¬ (p.scanline ≤ 239 ∧ 1 ≤ p.dot ∧ p.dot ≤ 256)) :
    p.frameDot cfg = { p with
      vblank := if p.scanline = 241 ∧ p.dot = 0 then true else if p.scanline = 261 ∧ p.dot = 0 then false else p.vblank
      sprite0Hit := if p.scanline = 261 ∧ p.dot = 0 then false else p.sprite0Hit
      spriteOverflow := if p.scanline = 261 ∧ p.dot = 0 then false else p.spriteOverflow
      frameComplete := p.frameComplete || (p.scanline = 240 && p.dot = 0) } := by
  have noPixel : (decide (p.scanline ≤ 239) && decide (1 ≤ p.dot) && decide (p.dot ≤ 256)) = false := by
    simpa [and_assoc] using h
  unfold Ppu.frameDot
  dsimp only
  rw [noPixel]
  by_cases start : p.dot = 0
  · by_cases blank : p.scanline = 241
    · simp [doIf, start, blank, Ppu.vblankStart]
    · by_cases last : p.scanline = 261
      · simp [doIf, start, last, Ppu.clearFrameFlags]
      · by_cases done : p.scanline = 240
        · simp [doIf, start, done, Ppu.setFrameComplete]
        · simp [doIf, start, blank, last, done]
          exact congrArg (fun d => { p with dot := d }) start
  · simp [doIf, start]

/-- At the first dot of a line no rendering line of R511 applies. -/
theorem executeDot_of_dot_zero (cfg : Params) (c : Cartridge) {p : Ppu} (h : p.dot = 0) :
    p.executeDot cfg c = p.frameDot cfg := by
  have start : (p.frameDot cfg).dot = 0 := (Ppu.DotKeeps.frameDot cfg p).dot.trans h
  have idle : (p.frameDot cfg).renderDot c = p.frameDot cfg := by simp [Ppu.renderDot, start, spriteFetchDot, doIf]
  unfold Ppu.executeDot doIf
  dsimp only
  rw [idle, ite_self]

theorem executeDot_frameComplete (cfg : Params) (c : Cartridge) (p : Ppu) : (p.executeDot cfg c).frameComplete =
    (p.frameComplete || (p.scanline = 240 && p.dot = 0)) := by
  rw [executeDot_field Ppu.frameComplete (fun _ _ _ _ _ _ => rfl)]
  by_cases visible : p.scanline ≤ 239 ∧ 1 ≤ p.dot ∧ p.dot ≤ 256
  · obtain ⟨line, h1, h2⟩ := visible
    have other : p.scanline ≠ 240 := by omega
    rw [frameDot_visible cfg line h1 h2]
    simp [Ppu.outputPixel, other]
  · rw [frameDot_not_visible cfg visible]

/-- The dot at (261, 0) clears the frame's flags (R478). -/
theorem executeDot_clears (cfg : Params) (c : Cartridge) {p : Ppu} (line : p.scanline = 261) (dot : p.dot = 0) :
    (p.executeDot cfg c).sprite0Hit = false ∧ (p.executeDot cfg c).spriteOverflow = false := by
  rw [executeDot_of_dot_zero cfg c dot, frameDot_not_visible cfg (by omega)]
  simp [line, dot]

/-- Settles O37: the flags are those the dot leaves, and the line and the latch are evaluated behind it. -/
theorem vblankAndNmi : Obligations.VblankAndNmi := by
  intro s
  have flag {α : Type} (g : Ppu → α) (h : ∀ q : Ppu, ∀ t l d s o,
      g { q with decayTimer := t, ioLatch := l, dot := d, scanline := s, oddFrame := o } = g q) :=
    tick_of_dot s.cfg s.cart s.ppu g h
  refine ⟨?vblank, ?cleared, ?complete, ?line, rfl⟩
  case vblank => exact (tick_vblank ..).trans (executeDot_vblank ..)
  case cleared =>
    rintro ⟨line, dot⟩
    obtain ⟨hit, overflow⟩ := executeDot_clears s.cfg s.cart line dot
    exact ⟨(flag Ppu.sprite0Hit (fun _ _ _ _ _ _ => rfl)).trans hit,
      (flag Ppu.spriteOverflow (fun _ _ _ _ _ _ => rfl)).trans overflow⟩
  case complete => exact (flag Ppu.frameComplete (fun _ _ _ _ _ _ => rfl)).trans (executeDot_frameComplete ..)
  case line =>
    have enable : (s.ppu.tick s.cfg s.cart).nmiEnable = s.ppu.nmiEnable := tick_nmiEnable ..
    exact congrArg ((ppuTick s).ppu.vblank && ·) enable

/-! ### Sprite-zero hit -/

theorem hitsSprite0_iff (cfg : Params) (p : Ppu) (x : Nat) : p.hitsSprite0 cfg x = true ↔
    p.renderingEnabled = true ∧ (p.bgPixel x).1 ≠ 0 ∧ x ≠ cfg.sprite0NoHitX.column ∧
      ∃ d, p.spritePixel x = some d ∧ d.slot = 0 ∧ d.value ≠ 0 := by
  have opaqueDot : ((p.spritePixel x).any fun d => d.slot = 0) = true ↔
      ∃ d, p.spritePixel x = some d ∧ d.slot = 0 ∧ d.value ≠ 0 := by
    rw [Option.any_eq_true]
    exact exists_congr fun d => and_congr_right fun hd => by
      rw [decide_eq_true_eq, and_iff_left (spritePixel_value hd)]
  simp only [Ppu.hitsSprite0, Bool.and_eq_true, bne_iff_ne, opaqueDot]
  tauto

/-- The flag after a dot: a visible dot may set it, (261, 0) clears it, and any other keeps it (R478, R530). -/
theorem executeDot_sprite0Hit (cfg : Params) (c : Cartridge) (p : Ppu) : (p.executeDot cfg c).sprite0Hit =
    if p.scanline ≤ 239 ∧ 1 ≤ p.dot ∧ p.dot ≤ 256 then p.sprite0Hit || p.hitsSprite0 cfg (p.dot - 1)
    else if p.scanline = 261 ∧ p.dot = 0 then false else p.sprite0Hit := by
  rw [executeDot_field Ppu.sprite0Hit (fun _ _ _ _ _ _ => rfl)]
  split_ifs with visible
  · rw [frameDot_visible cfg visible.1 visible.2.1 visible.2.2]
    rfl
  all_goals simp [frameDot_not_visible cfg visible, *]

/-- Settles O49: the flag after the dot, case by case, and what a hit is. -/
theorem spriteZeroHit : Obligations.SpriteZeroHit := by
  intro cfg c p
  rw [executeDot_sprite0Hit]
  by_cases visible : p.scanline ≤ 239 ∧ 1 ≤ p.dot ∧ p.dot ≤ 256
  · rw [if_pos visible, Bool.or_eq_true, hitsSprite0_iff]
    have notClearing : ¬ (p.scanline = 261 ∧ p.dot = 0) := by omega
    tauto
  · rw [if_neg visible]
    split_ifs with clearing
    · simp [clearing]
    · tauto

end Sys2Proof.Machine
end

section
/-!
PROOFS. The pixel of a visible dot (O50): the one cell of the frame it writes, its colour, and the two pixels it is
composed of.
-/

namespace Sys2Proof.Machine

/-! ### The frame -/

/-- A row of a grid with one cell replaced, put back in its place. -/
theorem getElem?_bind_setCell {α : Type} {m n : Nat} (grid : Vector (Vector α m) n) (blank : Vector α m) {i j : Nat}
    (hi : i < n) (hj : j < m) (v : α) (y x : Nat) :
    ((grid.setIfInBounds i ((grid[i]?.getD blank).setIfInBounds j v))[y]?.bind fun row => row[x]?) =
      if y = i ∧ x = j then some v else grid[y]?.bind fun row => row[x]? := by
  rw [Vector.getElem?_setIfInBounds]
  by_cases row : i = y
  · subst row
    by_cases cell : j = x
    · subst cell
      simp [hi, hj]
    · simp [hi, cell, Ne.symm cell]
  · simp [row, Ne.symm row]

/-! ### The colour -/

theorem paletteAt_backdrop (p : Ppu) : p.paletteAt 0x3F00 = readCell p.palette 0 := by
  rw [Ppu.paletteAt, show palidx 0x3F00 = 0 by decide]

/-- The background's entry: the backdrop where its pixel is transparent (R529). -/
def Ppu.underColour (p : Ppu) (bg : BitVec 2 × BitVec 2) : Colour :=
  if bg.1 = 0 then readCell p.palette 0 else readCell p.palette (4 * bg.2.toNat + bg.1.toNat)

/-- Where an opaque sprite pixel stands on the background (R529). -/
def Ppu.onTopColour (p : Ppu) (bg : BitVec 2 × BitVec 2) (d : SpriteDot) : Colour :=
  if bg.1 = 0 ∨ d.behind = false then readCell p.palette (16 + 4 * d.palette.toNat + d.value.toNat)
  else p.underColour bg

theorem compose_eq (p : Ppu) (bg : BitVec 2 × BitVec 2) {sp : Option SpriteDot} (h : ∀ d, sp = some d → d.value ≠ 0) :
    p.compose bg sp = sp.elim (p.underColour bg) (p.onTopColour bg) := by
  have under : (if bg.1 ≠ 0 then p.paletteAt (0x3F00 + 4 * bg.2.setWidth 14 + bg.1.setWidth 14)
      else p.paletteAt 0x3F00) = p.underColour bg := by
    rw [paletteAt_backdrop, Ppu.underColour, ite_not]
    exact ite_congr rfl (fun _ => rfl) (fun shown => paletteAt_background p _ _ shown)
  unfold Ppu.compose
  dsimp only
  rw [under]
  cases sp with
  | none => rfl
  | some d =>
    dsimp only
    rw [paletteAt_sprite p _ _ (h d rfl)]
    simp [Ppu.onTopColour]

/-- The colour of a pixel, with rendering enabled and without (R529, R531). -/
theorem pixelColour_eq (p : Ppu) (x : Nat) : p.pixelColour x =
    if p.renderingEnabled then (p.spritePixel x).elim (p.underColour (p.bgPixel x)) (p.onTopColour (p.bgPixel x))
    else readCell p.palette 0 := by
  rw [Ppu.pixelColour, paletteAt_backdrop, compose_eq p _ fun _ => spritePixel_value]

/-- The emphasis bits are the mask's top three (R532). -/
theorem emphasis_eq (p : Ppu) : p.emphasis = (p.mask >>> 5).setWidth 3 := by
  refine BitVec.eq_of_getLsbD_eq fun i hi => ?_
  simp [Ppu.emphasis, hi]

/-- A visible dot writes its own pixel and no other (R458, R532). -/
theorem executeDot_pixel (cfg : Params) (c : Cartridge) {p : Ppu} (line : p.scanline ≤ 239) (h1 : 1 ≤ p.dot)
    (h2 : p.dot ≤ 256) (y x : Nat) : ((p.executeDot cfg c).frame[y]?.bind fun row => row[x]?) =
    if y = p.scanline ∧ x = p.dot - 1 then
      some { colour := p.pixelColour (p.dot - 1) &&& (if p.greyscale then 0x30 else 0x3F), emphasis := p.emphasis }
    else p.frame[y]?.bind fun row => row[x]? := by
  rw [executeDot_field Ppu.frame (fun _ _ _ _ _ _ => rfl), frameDot_visible cfg line h1 h2]
  exact getElem?_bind_setCell p.frame _ (by omega) (by omega) _ y x

/-- With rendering disabled nothing hits (R480, R530). -/
theorem executeDot_sprite0Hit_of_disabled (cfg : Params) (c : Cartridge) {p : Ppu} (line : p.scanline ≤ 239)
    (disabled : p.renderingEnabled = false) : (p.executeDot cfg c).sprite0Hit = p.sprite0Hit := by
  rw [executeDot_sprite0Hit]
  have notClearing : ¬ (p.scanline = 261 ∧ p.dot = 0) := by omega
  split_ifs
  · simp [Ppu.hitsSprite0, disabled]
  · rfl

/-! ### The background pixel -/

theorem twoBits_toNat (hi lo : Bool) : (twoBits hi lo).toNat = 2 * num hi + num lo := by
  cases hi <;> cases lo <;> rfl

/-- The background is hidden by its show flag, and in the left eight columns by another (R460, R527). -/
theorem bgPixel_eq (p : Ppu) (x : Nat) : p.bgPixel x =
    if p.mask.getLsbD 3 = false ∨ (x < 8 ∧ p.mask.getLsbD 1 = false) then (0, 0)
    else (twoBits (p.bg.bgHi.getLsbD (15 - p.scroll.x.toNat)) (p.bg.bgLo.getLsbD (15 - p.scroll.x.toNat)),
      twoBits (p.bg.atHi.getLsbD (7 - p.scroll.x.toNat)) (p.bg.atLo.getLsbD (7 - p.scroll.x.toNat))) := by
  simp [Ppu.bgPixel, Ppu.showBg, Ppu.showBgLeft, bit]

theorem bgPixel_toNat (p : Ppu) (x : Nat) :
    (p.bgPixel x).1.toNat = (if p.mask.getLsbD 3 = false ∨ (x < 8 ∧ p.mask.getLsbD 1 = false) then 0
      else 2 * num (p.bg.bgHi.getLsbD (15 - p.scroll.x.toNat)) + num (p.bg.bgLo.getLsbD (15 - p.scroll.x.toNat))) ∧
    (p.bgPixel x).2.toNat = (if p.mask.getLsbD 3 = false ∨ (x < 8 ∧ p.mask.getLsbD 1 = false) then 0
      else 2 * num (p.bg.atHi.getLsbD (7 - p.scroll.x.toNat)) + num (p.bg.atLo.getLsbD (7 - p.scroll.x.toNat))) := by
  rw [bgPixel_eq]
  split_ifs
  · exact ⟨rfl, rfl⟩
  · exact ⟨twoBits_toNat _ _, twoBits_toNat _ _⟩

/-! ### The sprite pixel -/

/-- The pixel value of slot `i` at column `x`, 0 outside the sprite (R528). -/
def SpritePipe.slotValue (s : SpritePipe) (x i : Nat) : Nat :=
  let slot := s.slot i
  if slot.valid = true ∧ slot.x.toNat ≤ x ∧ x ≤ slot.x.toNat + 7 then
    2 * num (slot.hi.getLsbD (7 - (x - slot.x.toNat))) + num (slot.lo.getLsbD (7 - (x - slot.x.toNat)))
  else 0

/-- A slot's dot is its opaque pixel value with the palette and the priority of its sprite (R528). -/
theorem slotDot_eq (s : SpritePipe) (x i : Nat) : s.slotDot x i =
    if s.slotValue x i = 0 then none
    else some {
      slot := i
      value := BitVec.ofNat 2 (s.slotValue x i)
      palette := (s.slot i).attr.extractLsb' 0 2
      behind := (s.slot i).attr.getLsbD 5 } := by
  by_cases inside : (s.slot i).valid = true ∧ (s.slot i).x.toNat ≤ x ∧ x ≤ (s.slot i).x.toNat + 7
  · have visible : ((s.slot i).valid && decide ((s.slot i).x.toNat ≤ x) &&
        decide (x ≤ (s.slot i).x.toNat + 7)) = true := by
      simpa [and_assoc] using inside
    rw [SpritePipe.slotValue, if_pos inside, ← twoBits_toNat, BitVec.ofNat_toNat, BitVec.setWidth_eq,
      SpritePipe.slotDot, if_pos visible]
    exact if_congr (BitVec.toNat_inj (y := 0)).symm rfl rfl
  · have outside : ¬ ((s.slot i).valid && decide ((s.slot i).x.toNat ≤ x) &&
        decide (x ≤ (s.slot i).x.toNat + 7)) = true := by
      simpa [and_assoc] using inside
    rw [SpritePipe.slotValue, if_neg inside, if_pos rfl, SpritePipe.slotDot, if_neg outside]

theorem slotDot_eq_none_iff {s : SpritePipe} {x i : Nat} : s.slotDot x i = none ↔ s.slotValue x i = 0 := by
  rw [slotDot_eq]
  split_ifs <;> simp [*]

theorem slotValue_lt (s : SpritePipe) (x i : Nat) : s.slotValue x i < 4 := by
  have bits : ∀ hi lo, 2 * num hi + num lo < 4 := by decide
  unfold SpritePipe.slotValue
  dsimp only
  split_ifs
  · exact bits _ _
  · decide

theorem slotDot_eq_some_iff {s : SpritePipe} {x i : Nat} {d : SpriteDot} : s.slotDot x i = some d ↔
    d.slot = i ∧ s.slotValue x i ≠ 0 ∧ d.value.toNat = s.slotValue x i ∧
      d.palette.toNat = (s.slot i).attr.toNat % 4 ∧ d.behind = (s.slot i).attr.getLsbD 5 := by
  have value : (BitVec.ofNat 2 (s.slotValue x i)).toNat = s.slotValue x i := by
    have := slotValue_lt s x i
    simp
    omega
  have palette : ((s.slot i).attr.extractLsb' 0 2).toNat = (s.slot i).attr.toNat % 4 := by simp
  rw [slotDot_eq]
  split_ifs with clear
  · simp [clear]
  · constructor
    · rintro ⟨⟩
      exact ⟨rfl, clear, value, palette, rfl⟩
    · rintro ⟨rfl, -, hv, hq, hb⟩
      rw [BitVec.eq_of_toNat_eq (value.trans hv.symm), BitVec.eq_of_toNat_eq (palette.trans hq.symm), ← hb]

/-- The first value that a function gives below a bound. -/
theorem findSome?_range_eq_some_iff {α : Type} {f : Nat → Option α} {n : Nat} {b : α} :
    (List.range n).findSome? f = some b ↔ ∃ i < n, f i = some b ∧ ∀ j < i, f j = none := by
  induction n with
  | zero => simp
  | succ n ih =>
    have last : [n].findSome? f = f n := by simp
    rw [List.range_succ, List.findSome?_append, Option.or_eq_some_iff, ih, List.findSome?_eq_none_iff, last]
    constructor
    · rintro (⟨i, hi, found, before⟩ | ⟨before, found⟩)
      · exact ⟨i, by omega, found, before⟩
      · exact ⟨n, by omega, found, fun j hj => before j (List.mem_range.2 hj)⟩
    · rintro ⟨i, hi, found, before⟩
      rcases Nat.lt_succ_iff_lt_or_eq.1 hi with lt | rfl
      · exact .inl ⟨i, lt, found, before⟩
      · exact .inr ⟨fun j hj => before j (List.mem_range.1 hj), found⟩

/-- The sprite pixel is the dot of the lowest slot that has one, unless sprites are hidden there (R460, R528). -/
theorem spritePixel_eq_some_iff {p : Ppu} {x : Nat} {d : SpriteDot} : p.spritePixel x = some d ↔
    p.mask.getLsbD 4 = true ∧ (8 ≤ x ∨ p.mask.getLsbD 2 = true) ∧ d.slot < 8 ∧ p.spr.slotValue x d.slot ≠ 0 ∧
      (∀ i, i < d.slot → p.spr.slotValue x i = 0) ∧ d.value.toNat = p.spr.slotValue x d.slot ∧
      d.palette.toNat = (p.spr.slot d.slot).attr.toNat % 4 ∧ d.behind = (p.spr.slot d.slot).attr.getLsbD 5 := by
  have hidden : (!p.showSprites || (decide (x < 8) && !p.showSpritesLeft)) = true ↔
      ¬ (p.mask.getLsbD 4 = true ∧ (8 ≤ x ∨ p.mask.getLsbD 2 = true)) := by
    show (!p.mask.getLsbD 4 || (decide (x < 8) && !p.mask.getLsbD 2)) = true ↔ _
    cases p.mask.getLsbD 4 <;> simp
  unfold Ppu.spritePixel
  split_ifs with h
  · have := hidden.1 h
    simp
    tauto
  · rw [findSome?_range_eq_some_iff]
    have shown := not_not.1 (mt hidden.2 h)
    simp only [slotDot_eq_some_iff, slotDot_eq_none_iff]
    constructor
    · rintro ⟨i, hi, ⟨rfl, rest⟩, before⟩
      exact ⟨shown.1, shown.2, hi, rest.1, before, rest.2⟩
    · rintro ⟨-, -, hi, clear, before, rest⟩
      exact ⟨d.slot, hi, ⟨rfl, clear, rest⟩, before⟩

/-- Settles O50: the cell, its colour, and the two pixels. -/
theorem visiblePixel : Obligations.VisiblePixel := by
  refine ⟨fun cfg c p y x line h1 h2 _ _ => ⟨?_, executeDot_sprite0Hit_of_disabled cfg c line⟩, bgPixel_toNat,
    fun _ _ _ => spritePixel_eq_some_iff⟩
  rw [executeDot_pixel cfg c line h1 h2, pixelColour_eq, emphasis_eq]
  rfl

end Sys2Proof.Machine
end

section
/-!
PROOFS. Sprite evaluation (O48): the loop of R520 sprite by sprite, and the scan of R521 behind it.
-/

namespace Sys2Proof.Machine

/-! ### The loop, sprite by sprite -/

/-- The loop behind a sprite in range: its four bytes are in the buffer (R520). -/
def Scan.take (oam : Mem) (k : Scan) : Scan :=
  { secondary := copySprite oam k.next k.count (k.secondary.setIfInBounds (4 * k.count) (readCell oam (4 * k.next)))
    count := k.count + 1
    next := k.next + 1 }

/-- The loop behind any other sprite: its first byte is where the next one's will be (R520). -/
def Scan.pass (oam : Mem) (k : Scan) : Scan :=
  { k with secondary := k.secondary.setIfInBounds (4 * k.count) (readCell oam (4 * k.next)), next := k.next + 1 }

/-- The sprites in range among `fuel` from the `n`-th on. -/
def spritesInRange (oam : Mem) (h s n fuel : Nat) : List Nat :=
  (List.range' n fuel).filter fun n => inRange (readCell oam (4 * n)) h s

section
variable {oam : Mem} {h s fuel : Nat} {k : Scan}

theorem findSprites_of_full (full : 8 ≤ k.count) : findSprites oam h s fuel k = k := by
  cases fuel <;> simp [findSprites, full]

theorem findSprites_take (room : k.count < 8) (hit : inRange (readCell oam (4 * k.next)) h s = true) :
    findSprites oam h s (fuel + 1) k = findSprites oam h s fuel (k.take oam) := by
  simp [findSprites, Nat.not_le.2 room, hit, Scan.take]

theorem findSprites_pass (room : k.count < 8) (miss : ¬ inRange (readCell oam (4 * k.next)) h s = true) :
    findSprites oam h s (fuel + 1) k = findSprites oam h s fuel (k.pass oam) := by
  simp [findSprites, Nat.not_le.2 room, miss, Scan.pass]

theorem spritesInRange_cons {n : Nat} (hit : inRange (readCell oam (4 * n)) h s = true) :
    spritesInRange oam h s n (fuel + 1) = n :: spritesInRange oam h s (n + 1) fuel := by
  simp [spritesInRange, List.range'_succ, hit]

theorem spritesInRange_skip {n : Nat} (miss : ¬ inRange (readCell oam (4 * n)) h s = true) :
    spritesInRange oam h s n (fuel + 1) = spritesInRange oam h s (n + 1) fuel := by
  simp [spritesInRange, List.range'_succ, miss]

end

section
variable (oam : Mem) (h s : Nat)

/-- The loop counts the sprites in range, up to eight (R520). -/
theorem findSprites_count_eq (fuel : Nat) (k : Scan) (hk : k.count ≤ 8) : (findSprites oam h s fuel k).count =
    min 8 (k.count + (spritesInRange oam h s k.next fuel).length) := by
  induction fuel generalizing k with
  | zero => simpa [findSprites, spritesInRange] using hk
  | succ fuel ih =>
    by_cases full : 8 ≤ k.count
    · rw [findSprites_of_full full]
      omega
    · have room : k.count < 8 := by omega
      by_cases hit : inRange (readCell oam (4 * k.next)) h s = true
      · rw [findSprites_take room hit, ih (k.take oam) room, spritesInRange_cons hit, List.length_cons, Nat.add_comm _ 1,
          ← Nat.add_assoc]
        rfl
      · rw [findSprites_pass room hit, ih (k.pass oam) hk, spritesInRange_skip hit]
        rfl

/-- With room left the loop goes through all sprites (R520). -/
theorem findSprites_next_of_room (fuel : Nat) (k : Scan)
    (room : k.count + (spritesInRange oam h s k.next fuel).length < 8) :
    (findSprites oam h s fuel k).next = k.next + fuel := by
  induction fuel generalizing k with
  | zero => rfl
  | succ fuel ih =>
    have room' : k.count < 8 := by omega
    by_cases hit : inRange (readCell oam (4 * k.next)) h s = true
    · rw [spritesInRange_cons hit, List.length_cons] at room
      have left : (k.take oam).count + (spritesInRange oam h s (k.take oam).next fuel).length < 8 := by
        show k.count + 1 + (spritesInRange oam h s (k.next + 1) fuel).length < 8
        omega
      rw [findSprites_take room' hit, ih _ left]
      exact Nat.add_right_comm k.next 1 fuel
    · rw [spritesInRange_skip hit] at room
      rw [findSprites_pass room' hit, ih (k.pass oam) room]
      exact Nat.add_right_comm k.next 1 fuel

/-! ### The buffer -/

/-- A sprite's four bytes stand behind those of the sprites before it (R520). -/
theorem take_secondary (k : Scan) (room : k.count < 8) (b : Nat) : (k.take oam).secondary[b]? =
    if 4 * k.count ≤ b ∧ b < 4 * k.count + 4 then some (readCell oam (4 * k.next + (b - 4 * k.count)))
    else k.secondary[b]? := by
  have fits : ∀ j, j < 4 → 4 * k.count + j < 32 := by omega
  split_ifs with inside
  · obtain ⟨j, rfl⟩ := Nat.exists_eq_add_of_le inside.1
    have hj : j < 4 := by omega
    rw [Nat.add_sub_cancel_left]
    have start : 4 * k.count < 32 := fits 0 (by decide)
    interval_cases j <;> simp [Scan.take, copySprite, fits, start]
  · have other : ∀ j, j < 4 → 4 * k.count + j ≠ b := by omega
    have first : 4 * k.count ≠ b := other 0 (by decide)
    simp [Scan.take, copySprite, other, first]

theorem pass_secondary (k : Scan) {b : Nat} (hb : b < 4 * k.count) :
    (k.pass oam).secondary[b]? = k.secondary[b]? := by
  have other : 4 * k.count ≠ b := by omega
  simp [Scan.pass, other]

/-- The bytes of the sprites found so far stay. -/
theorem findSprites_secondary_of_lt (fuel : Nat) (k : Scan) {b : Nat} (hb : b < 4 * k.count) :
    (findSprites oam h s fuel k).secondary[b]? = k.secondary[b]? := by
  induction fuel generalizing k with
  | zero => rfl
  | succ fuel ih =>
    by_cases full : 8 ≤ k.count
    · rw [findSprites_of_full full]
    · have room : k.count < 8 := by omega
      by_cases hit : inRange (readCell oam (4 * k.next)) h s = true
      · have older : b < 4 * (k.take oam).count := Nat.lt_of_lt_of_le hb (Nat.mul_le_mul_left 4 (Nat.le_succ _))
        rw [findSprites_take room hit, ih _ older, take_secondary oam k room, if_neg (by omega)]
      · rw [findSprites_pass room hit, ih (k.pass oam) hb, pass_secondary oam k hb]

/-- The buffer holds the four bytes of each sprite found (R520). -/
theorem findSprites_secondary (fuel : Nat) (k : Scan) {i n j : Nat} (hj : j < 4) (hi : k.count + i < 8)
    (found : (spritesInRange oam h s k.next fuel)[i]? = some n) :
    (findSprites oam h s fuel k).secondary[4 * (k.count + i) + j]? = some (readCell oam (4 * n + j)) := by
  induction fuel generalizing k i with
  | zero => simp [spritesInRange] at found
  | succ fuel ih =>
    have room : k.count < 8 := by omega
    by_cases hit : inRange (readCell oam (4 * k.next)) h s = true
    · rw [spritesInRange_cons hit] at found
      rw [findSprites_take room hit]
      cases i with
      | zero =>
        obtain rfl : k.next = n := by simpa using found
        have old : 4 * (k.count + 0) + j < 4 * (k.take oam).count := by
          show _ < 4 * (k.count + 1)
          omega
        rw [findSprites_secondary_of_lt oam h s fuel _ old, take_secondary oam k room, if_pos (by omega)]
        congr 3
        omega
      | succ i =>
        have shifted : k.count + (i + 1) = (k.take oam).count + i := Nat.add_right_comm k.count i 1
        rw [shifted] at hi ⊢
        exact ih (k.take oam) hi found
    · rw [spritesInRange_skip hit] at found
      rw [findSprites_pass room hit]
      exact ih (k.pass oam) hi found

end

/-! ### Evaluation -/

/-- The loop of an evaluation, from a cleared buffer (R520, R526). -/
def Ppu.scan (p : Ppu) : Scan :=
  findSprites p.oam p.spriteHeight p.scanline 64 { secondary := Vector.replicate 32 0xFF, count := 0, next := 0 }

theorem evaluateSprites_of_line {p : Ppu} (h : p.scanline ≠ 261) : p.evaluateSprites = { p with
    spr := { p.spr with secondary := p.scan.secondary, count := p.scan.count }
    spriteOverflow := p.spriteOverflow ||
      overflowScan p.oam p.spriteHeight p.scanline (64 - p.scan.next) p.scan.next 0 } :=
  if_neg h

theorem evaluateSprites_of_preRender {p : Ppu} (h : p.scanline = 261) : p.evaluateSprites =
    { p with spr := { p.spr with secondary := Vector.replicate 32 0xFF, count := 0 } } :=
  if_pos h

theorem inRange_iff (y : Byte) (h s : Nat) : inRange y h s = true ↔ y.toNat ≤ s ∧ s < y.toNat + h := by
  simp [inRange]

/-- The overflow flag with an eighth sprite: what the scan behind it finds (R521). -/
theorem scan_overflow_iff {p : Ppu} {eighth : Nat}
    (found : (spritesInRange p.oam p.spriteHeight p.scanline 0 64)[7]? = some eighth) :
    overflowScan p.oam p.spriteHeight p.scanline (64 - p.scan.next) p.scan.next 0 = true ↔
      ∃ j, eighth + 1 + j < 64 ∧
        inRange (readCell p.oam (4 * (eighth + 1 + j) + j % 4)) p.spriteHeight p.scanline = true := by
  have stopped : p.scan.next = eighth + 1 := findSprites_next p.oam _ _ 64 _ (by decide) eighth found
  rw [stopped, overflowScan_iff _ _ _ _ _ _ (by decide)]
  refine exists_congr fun j => and_congr (by omega) ?_
  rw [Nat.zero_add]

/-- Settles O48: what the loop found, what its buffer holds, and what the scan finds behind the eighth sprite. -/
theorem spriteEvaluation : Obligations.SpriteEvaluation := by
  intro p
  dsimp only
  have inList : (List.range 64).filter (fun n => decide ((readCell p.oam (4 * n)).toNat ≤ p.scanline ∧
      p.scanline < (readCell p.oam (4 * n)).toNat + p.spriteHeight)) =
      spritesInRange p.oam p.spriteHeight p.scanline 0 64 := by
    simp only [← inRange_iff, Bool.decide_eq_true, spritesInRange, List.range_eq_range']
  have height : (if p.ctrl.getLsbD 5 then 16 else 8) = p.spriteHeight := rfl
  rw [height, inList]
  refine ⟨fun line => ?_, fun preRender => ?_⟩
  · rw [evaluateSprites_of_line line]
    refine ⟨?count, fun i hi n found j hj => ?bytes, fun few => ?few, fun eighth found => ?many⟩
    case count => exact (findSprites_count_eq _ _ _ _ _ (by decide)).trans (by rw [Nat.zero_add])
    case bytes =>
      have bytes := findSprites_secondary p.oam p.spriteHeight p.scanline 64
        { secondary := Vector.replicate 32 0xFF, count := 0, next := 0 } hj (i := i) (by dsimp only; omega) found
      rw [Nat.zero_add] at bytes
      exact congrArg (Option.getD · 0) bytes
    case few =>
      have all : p.scan.next = 64 := findSprites_next_of_room _ _ _ _ _ (by rwa [Nat.zero_add])
      dsimp only
      rw [all]
      exact Bool.or_false _
    case many =>
      simp only [← inRange_iff]
      rw [Bool.or_eq_true, scan_overflow_iff found]
  · rw [evaluateSprites_of_preRender preRender]
    exact ⟨rfl, rfl⟩

end Sys2Proof.Machine
end

section
/-!
PROOFS. The mapper policies: the banks they select and the writes that select them (O51).
-/

namespace Sys2Proof.Machine

variable {c : Cartridge} {a : Addr}

/-! ### Program banks -/

/-- With one or two banks of 16 KiB the image is mapped as it is (R562). -/
theorem programOffset_direct (cfg : Params) (h : 0x8000 ≤ a.toNat)
    (mapper : c.mapper = .fixed ∨ c.mapper = .graphicsSwitch) :
    (c.prgBanks = 1 → programOffset cfg c a = bankOffset 0 a) ∧
      (c.prgBanks = 2 → programOffset cfg c a = bankOffset (if a.toNat < 0xC000 then 0 else 1) a) := by
  have := a.isLt
  have offset : programOffset cfg c a = (a.toNat - 0x8000) % (0x4000 * c.prgBanks) := by
    rcases mapper with mapper | mapper <;> simp [programOffset, mapper]
  rw [offset]
  refine ⟨fun one => ?_, fun two => ?_⟩
  · rw [one, bankOffset]
    omega
  · rw [two, bankOffset]
    split_ifs <;> omega

/-- The lower and the upper half of program space (R561). -/
theorem low_iff : a.toNat ≤ 0xBFFF ↔ a.toNat < 0xC000 := Nat.lt_succ_iff.symm

theorem programOffset_lowSwitch (cfg : Params) (mapper : c.mapper = .lowSwitch) : programOffset cfg c a =
    bankOffset (if a.toNat < 0xC000 then c.prgBank.toNat % c.prgBanks else c.prgBanks - 1) a := by
  simp only [programOffset, mapper, low_iff, apply_ite (bankOffset · a)]

theorem highFixedBank_eq (cfg : Params) (c : Cartridge) : highFixedBank cfg c =
    if cfg.highSwitchFixedBank = .first then 0 else c.prgBanks - 1 := by
  unfold highFixedBank
  cases cfg.highSwitchFixedBank <;> rfl

theorem programOffset_highSwitch (cfg : Params) (mapper : c.mapper = .highSwitch) : programOffset cfg c a =
    bankOffset (if a.toNat < 0xC000 then (if cfg.highSwitchFixedBank = .first then 0 else c.prgBanks - 1)
      else c.prgBank.toNat % c.prgBanks) a := by
  simp only [programOffset, mapper, low_iff, highFixedBank_eq, apply_ite (bankOffset · a)]

/-- Bits 3-2 of the configuration register of id 1 (R568). -/
theorem programMode_iff (control : BitVec 5) (m : BitVec 2) :
    control.extractLsb' 2 2 = m ↔ control.toNat / 4 % 4 = m.toNat := by
  rw [← BitVec.toNat_inj]
  simp [Nat.shiftRight_eq_div_pow]

/-- The bank of id 1 by its program mode (R569). -/
theorem serialBank_eq (c : Cartridge) (a : Addr) : serialBank c a =
    if c.control.toNat / 4 % 4 = 3 then
      (if a.toNat < 0xC000 then c.prgReg.toNat % 16 % c.prgBanks else c.prgBanks - 1)
    else if c.control.toNat / 4 % 4 = 2 then (if a.toNat < 0xC000 then 0 else c.prgReg.toNat % 16 % c.prgBanks)
    else (c.prgReg.toNat % 16 / 2 * 2 + (if a.toNat < 0xC000 then 0 else 1)) % c.prgBanks := by
  have mode2 : c.control.extractLsb' 2 2 = 2 ↔ c.control.toNat / 4 % 4 = 2 := programMode_iff c.control 2
  have mode3 : c.control.extractLsb' 2 2 = 3 ↔ c.control.toNat / 4 % 4 = 3 := programMode_iff c.control 3
  simp only [serialBank, mode2, mode3, low_iff]
  by_cases last : c.control.toNat / 4 % 4 = 3
  · simp [last]
  · simp [last]

/-- The program bank and offset of every policy (R561-R564, R569). -/
theorem readProgram_banks (cfg : Params) (c : Cartridge) {a : Addr} (h : 0x8000 ≤ a.toNat) :
    let low := a.toNat < 0xC000
    let p := c.prgReg.toNat % 16
    let at_ := fun bank => readCell c.prg (0x4000 * bank + a.toNat % 0x4000)
    (c.mapper = .fixed ∨ c.mapper = .graphicsSwitch →
      (c.prgBanks = 1 → readProgram cfg c a = at_ 0) ∧
      (c.prgBanks = 2 → readProgram cfg c a = at_ (if low then 0 else 1))) ∧
    (c.mapper = .lowSwitch → readProgram cfg c a =
      at_ (if low then c.prgBank.toNat % c.prgBanks else c.prgBanks - 1)) ∧
    (c.mapper = .highSwitch → readProgram cfg c a =
      at_ (if low then (if cfg.highSwitchFixedBank = .first then 0 else c.prgBanks - 1)
        else c.prgBank.toNat % c.prgBanks)) ∧
    (c.mapper = .shiftRegister → readProgram cfg c a =
      at_ (if c.control.toNat / 4 % 4 = 3 then (if low then p % c.prgBanks else c.prgBanks - 1)
        else if c.control.toNat / 4 % 4 = 2 then (if low then 0 else p % c.prgBanks)
        else (p / 2 * 2 + (if low then 0 else 1)) % c.prgBanks)) := by
  refine ⟨fun mapper => ?_, fun mapper => ?_, fun mapper => ?_, fun mapper => ?_⟩
  · obtain ⟨one, two⟩ := programOffset_direct cfg h mapper
    exact ⟨fun n => congrArg (readCell c.prg) (one n), fun n => congrArg (readCell c.prg) (two n)⟩
  · exact congrArg (readCell c.prg) (programOffset_lowSwitch cfg mapper)
  · exact congrArg (readCell c.prg) (programOffset_highSwitch cfg mapper)
  · have offset : programOffset cfg c a = bankOffset (serialBank c a) a := by simp [programOffset, mapper]
    rw [serialBank_eq] at offset
    exact congrArg (readCell c.prg) offset

/-! ### Bank-select writes -/

theorem writeBankSelect_fixed (cfg : Params) (n : Nat) (a : Addr) (v : Byte) (mapper : c.mapper = .fixed) :
    writeBankSelect cfg n c a v = { c with lastWriteCycle := some n } := by
  simp only [writeBankSelect, mapper]

theorem writeBankSelect_program (cfg : Params) (n : Nat) (a : Addr) (v : Byte)
    (mapper : c.mapper = .lowSwitch ∨ c.mapper = .highSwitch) : writeBankSelect cfg n c a v =
      { c with prgBank := conflictValue cfg c a v, lastWriteCycle := some n } := by
  rcases mapper with mapper | mapper <;> simp only [writeBankSelect, mapper]

theorem writeBankSelect_graphics (cfg : Params) (n : Nat) (a : Addr) (v : Byte)
    (mapper : c.mapper = .graphicsSwitch) : writeBankSelect cfg n c a v =
      { c with chrBank := conflictValue cfg c a v, lastWriteCycle := some n } := by
  simp only [writeBankSelect, mapper]

/-! ### Graphics banks -/

theorem bit_4_iff (control : BitVec 5) : bit control 4 = true ↔ control.toNat / 16 = 1 := by
  revert control
  decide

/-- An even unit and the one behind it make up a bank (R570). -/
theorem unit_mod (q m : Nat) {e : Nat} (he : e < 2) : (q * 2 + e) % (2 * m) = 2 * (q % m) + e := by
  rw [Nat.mod_mul]
  have remainder : (q * 2 + e) % 2 = e := by omega
  have quotient : (q * 2 + e) / 2 = q := by omega
  rw [remainder, quotient, Nat.add_comm]

/-- The graphics address of id 1: two units of 4 KiB, or one bank of 8 KiB (R570). -/
theorem chrAddr_shiftRegister (mapper : c.mapper = .shiftRegister) {a : Nat} (h : a ≤ 0x1FFF) : chrAddr c a =
    if c.control.toNat / 16 = 1 then
      0x1000 * ((if a ≤ 0x0FFF then c.chr0.toNat else c.chr1.toNat) % (2 * chrUnits8K c)) + a % 0x1000
    else 0x2000 * (c.chr0.toNat / 2 % chrUnits8K c) + a := by
  simp only [chrAddr, mapper, bit_4_iff]
  by_cases units : c.control.toNat / 16 = 1
  · rw [if_pos units, if_pos units]
  · have half : (if a ≤ 0x0FFF then 0 else 1) < 2 := by split_ifs <;> decide
    rw [if_neg units, if_neg units, unit_mod _ _ half]
    split_ifs <;> omega

theorem chrAddr_graphicsSwitch (mapper : c.mapper = .graphicsSwitch) (a : Nat) :
    chrAddr c a = 0x2000 * (c.chrBank.toNat % chrUnits8K c) + a := by
  simp only [chrAddr, mapper]

theorem chrAddr_direct (h1 : c.mapper ≠ .graphicsSwitch) (h2 : c.mapper ≠ .shiftRegister) (a : Nat) :
    chrAddr c a = a := by
  cases mapper : c.mapper with
  | graphicsSwitch => exact absurd mapper h1
  | shiftRegister => exact absurd mapper h2
  | fixed | lowSwitch | highSwitch => simp only [chrAddr, mapper]

/-- Graphics RAM counts as one bank (R574). -/
theorem chrAddr_ram (ram : c.chrBanks = 0) {a : Nat} (h : a ≤ 0x1FFF) : chrAddr c a =
    if c.mapper = .shiftRegister ∧ c.control.toNat / 16 = 1 then
      0x1000 * ((if a ≤ 0x0FFF then c.chr0.toNat else c.chr1.toNat) % 2) + a % 0x1000
    else a := by
  have one : chrUnits8K c = 1 := by simp [chrUnits8K, ram]
  by_cases shift : c.mapper = .shiftRegister
  · simp [chrAddr_shiftRegister shift h, one, shift, Nat.mod_one]
  · rw [if_neg (fun k => shift k.1)]
    by_cases switch : c.mapper = .graphicsSwitch
    · simp [chrAddr_graphicsSwitch switch, one, Nat.mod_one]
    · exact chrAddr_direct switch shift a

/-- Settles O51: the offset, the write and the graphics address of each policy. -/
theorem bankMapping : Obligations.BankMapping := by
  refine ⟨fun cfg c a h _ => readProgram_banks cfg c h, fun cfg c a v n => ?writes, fun c a h rom => ?rom,
    fun c a v h ram => ?ram⟩
  case writes =>
    exact ⟨writeBankSelect_fixed cfg n a v, writeBankSelect_program cfg n a v, writeBankSelect_graphics cfg n a v⟩
  case rom =>
    have units : chrUnits8K c = c.chrBanks := max_eq_left rom
    have read : readGraphics c a = readCell c.chr (chrAddr c a) := if_neg (by omega)
    have write : ∀ v, writeGraphics c a v = c := fun v => if_neg (by omega)
    rw [read]
    refine ⟨fun mapper => ?_, fun mapper => ?_, fun h1 h2 => ?_, write⟩
    · rw [chrAddr_graphicsSwitch mapper, units]
    · rw [chrAddr_shiftRegister mapper h, units]
    · rw [chrAddr_direct h1 h2]
  case ram =>
    dsimp only
    rw [← chrAddr_ram ram h]
    exact ⟨if_pos ram, if_pos ram⟩

end Sys2Proof.Machine
end

section
/-!
PROOFS. The serial register of id 1 (O52), the nametable mirroring (O53) and the controllers (O54).
-/

namespace Sys2Proof.Machine

/-! ### The serial register -/

/-- A bit shifted in from the top (R566). -/
def shiftIn (x : BitVec 5) (b : Bool) : BitVec 5 := (x >>> 1) ||| ((BitVec.ofBool b).setWidth 5 <<< 4)

theorem shiftIn_toNat (x : BitVec 5) (b : Bool) : (shiftIn x b).toNat = x.toNat / 2 + 16 * num b := by
  revert x b
  decide

/-- Five bits shifted in are the whole register, the first as bit 0 (R566). -/
theorem shiftIn_five (x : BitVec 5) (b1 b2 b3 b4 b5 : Bool) :
    shiftIn (shiftIn (shiftIn (shiftIn (shiftIn x b1) b2) b3) b4) b5 =
      BitVec.ofNat 5 (num b1 + 2 * num b2 + 4 * num b3 + 8 * num b4 + 16 * num b5) := by
  have h1 := num_le b1
  have h2 := num_le b2
  have h3 := num_le b3
  have h4 := num_le b4
  have h5 := num_le b5
  have := x.isLt
  refine BitVec.eq_of_toNat_eq ?_
  simp only [shiftIn_toNat, BitVec.toNat_ofNat]
  omega

/-- The register of a commit is the quarter of program space (R566). -/
theorem commitRegister_iff (a : Addr) (r : BitVec 2) : a.extractLsb' 13 2 = r ↔ a.toNat / 0x2000 % 4 = r.toNat := by
  rw [← BitVec.toNat_inj]
  simp [Nat.shiftRight_eq_div_pow]

/-- A commit empties the serial register and writes the register of its range (R566). -/
theorem serialCommit_eq (c : Cartridge) (a : Addr) (value : BitVec 5) :
    let empty := { c with shift := 0, shiftCount := 0 }
    (a.toNat / 0x2000 % 4 = 0 → serialCommit c a value = { empty with control := value }) ∧
    (a.toNat / 0x2000 % 4 = 1 → serialCommit c a value = { empty with chr0 := value }) ∧
    (a.toNat / 0x2000 % 4 = 2 → serialCommit c a value = { empty with chr1 := value }) ∧
    (a.toNat / 0x2000 % 4 = 3 → serialCommit c a value = { empty with prgReg := value }) := by
  refine ⟨fun h => ?_, fun h => ?_, fun h => ?_, fun h => ?_⟩
  · simp [serialCommit, (commitRegister_iff a 0).2 h]
  · simp [serialCommit, (commitRegister_iff a 1).2 h]
  · simp [serialCommit, (commitRegister_iff a 2).2 h]
  · simp [serialCommit, (commitRegister_iff a 3).2 h]

/-- A cartridge with another serial register and last write. -/
def Cartridge.serial (c : Cartridge) (x : BitVec 5) (count : Nat) (last : Option Nat) : Cartridge :=
  { c with shift := x, shiftCount := count, lastWriteCycle := last }

/-- Whether id 1 heeds a write in cycle `n` behind the last one (R567). -/
def heeds (cfg : Params) (last : Option Nat) (n : Nat) : Prop :=
  cfg.mmc1IgnoreConsecutive = true → ∀ k, last = some k → n ≠ k + 1

section
variable {cfg : Params} {c : Cartridge} {n : Nat} {a : Addr} {v : Byte} (mapper : c.mapper = .shiftRegister)

theorem ignoresConsecutive_of_heeds (h : heeds cfg c.lastWriteCycle n) : ignoresConsecutive cfg n c = false := by
  unfold ignoresConsecutive
  cases on : cfg.mmc1IgnoreConsecutive with
  | false => rfl
  | true =>
    cases last : c.lastWriteCycle with
    | none => rfl
    | some k => simpa using h on k last

include mapper

theorem writeBankSelect_of_heeds (h : heeds cfg c.lastWriteCycle n) :
    writeBankSelect cfg n c a v = { serialWrite c a v with lastWriteCycle := some n } := by
  simp [writeBankSelect, mapper, ignoresConsecutive_of_heeds h]

/-- A write in the cycle after another one is recorded and no more (R567). -/
theorem writeBankSelect_ignored (on : cfg.mmc1IgnoreConsecutive = true) (last : c.lastWriteCycle = some n) :
    writeBankSelect cfg (n + 1) c a v = { c with lastWriteCycle := some (n + 1) } := by
  simp [writeBankSelect, mapper, ignoresConsecutive, on, last]

/-- A write with bit 7 set empties the serial register and sets the program mode 3 (R566). -/
theorem writeBankSelect_reset (set : v.getLsbD 7 = true) (h : heeds cfg c.lastWriteCycle n) :
    writeBankSelect cfg n c a v =
      { c with shift := 0, shiftCount := 0, control := c.control ||| 0x0C, lastWriteCycle := some n } := by
  rw [writeBankSelect_of_heeds mapper h, serialWrite, bit, if_pos set]

end

section
variable {cfg : Params} {c : Cartridge} {n : Nat} (a : Addr) {v : Byte} {x : BitVec 5} {count : Nat} {last : Option Nat}
  (clear : v.getLsbD 7 = false)
include clear

theorem serialWrite_shift (room : count < 4) : serialWrite (c.serial x count last) a v =
    c.serial (shiftIn x (v.getLsbD 0)) (count + 1) last := by
  have shifts : ¬ bit v 7 = true := Bool.eq_false_iff.1 clear
  exact (if_neg shifts).trans (if_neg (show ¬ count + 1 = 5 by omega))

theorem serialWrite_commit : serialWrite (c.serial x 4 last) a v =
    serialCommit (c.serial x 4 last) a (shiftIn x (v.getLsbD 0)) := by
  have shifts : ¬ bit v 7 = true := Bool.eq_false_iff.1 clear
  exact (if_neg shifts).trans (if_pos rfl)

variable (mapper : c.mapper = .shiftRegister) (h : heeds cfg last n)
include mapper h

/-- One of the first four writes shifts its bit in (R566). -/
theorem writeBankSelect_shift (room : count < 4) : writeBankSelect cfg n (c.serial x count last) a v =
    c.serial (shiftIn x (v.getLsbD 0)) (count + 1) (some n) := by
  rw [writeBankSelect_of_heeds (c := c.serial x count last) mapper h, serialWrite_shift a clear room]
  rfl

/-- The fifth write commits what it completes to the register of its range (R566). -/
theorem writeBankSelect_commit :
    let value := shiftIn x (v.getLsbD 0)
    let empty := { c with shift := 0, shiftCount := 0, lastWriteCycle := some n }
    (0x8000 ≤ a.toNat ∧ a.toNat < 0xA000 →
      writeBankSelect cfg n (c.serial x 4 last) a v = { empty with control := value }) ∧
    (0xA000 ≤ a.toNat ∧ a.toNat < 0xC000 →
      writeBankSelect cfg n (c.serial x 4 last) a v = { empty with chr0 := value }) ∧
    (0xC000 ≤ a.toNat ∧ a.toNat < 0xE000 →
      writeBankSelect cfg n (c.serial x 4 last) a v = { empty with chr1 := value }) ∧
    (0xE000 ≤ a.toNat → writeBankSelect cfg n (c.serial x 4 last) a v = { empty with prgReg := value }) := by
  obtain ⟨control, chr0, chr1, prgReg⟩ := serialCommit_eq (c.serial x 4 last) a (shiftIn x (v.getLsbD 0))
  have := a.isLt
  rw [writeBankSelect_of_heeds (c := c.serial x 4 last) mapper h, serialWrite_commit a clear]
  refine ⟨fun range => ?_, fun range => ?_, fun range => ?_, fun range => ?_⟩
  · rw [control (by omega)]
    rfl
  · rw [chr0 (by omega)]
    rfl
  · rw [chr1 (by omega)]
    rfl
  · rw [prgReg (by omega)]
    rfl

end

theorem heeds_of_lt {cfg : Params} {last : Option Nat} {n : Nat}
    (h : cfg.mmc1IgnoreConsecutive = true → ∀ k, last = some k → k + 1 < n) : heeds cfg last n :=
  fun on k hk => (h on k hk).ne'

theorem heeds_some {cfg : Params} {m n : Nat} (h : cfg.mmc1IgnoreConsecutive = true → m + 1 < n) :
    heeds cfg (some m) n :=
  heeds_of_lt fun on _ hk => Option.some.inj hk ▸ h on

/-- Settles O52: four writes shift, the fifth commits, and a reset or an ignored write is one equation. -/
theorem serialWrites : Obligations.SerialWrites := by
  refine ⟨?five, fun cfg c a v n mapper => ⟨writeBankSelect_ignored mapper, writeBankSelect_reset mapper⟩⟩
  intro cfg c a a1 a2 a3 a4 v1 v2 v3 v4 v5 n1 n2 n3 n4 n5 mapper empty spaced clear1 clear2 clear3 clear4 clear5
  have self : c = c.serial c.shift 0 c.lastWriteCycle := by
    rw [← empty]
    rfl
  have c4 : writeBankSelect cfg n4 (writeBankSelect cfg n3 (writeBankSelect cfg n2
      (writeBankSelect cfg n1 c a1 v1) a2 v2) a3 v3) a4 v4 =
      c.serial (shiftIn (shiftIn (shiftIn (shiftIn c.shift (v1.getLsbD 0)) (v2.getLsbD 0)) (v3.getLsbD 0))
        (v4.getLsbD 0)) 4 (some n4) := by
    conv_lhs => rw [self]
    rw [writeBankSelect_shift a1 clear1 mapper (heeds_of_lt fun on => (spaced on).1) (by decide),
      writeBankSelect_shift a2 clear2 mapper (heeds_some fun on => (spaced on).2.1) (by decide),
      writeBankSelect_shift a3 clear3 mapper (heeds_some fun on => (spaced on).2.2.1) (by decide),
      writeBankSelect_shift a4 clear4 mapper (heeds_some fun on => (spaced on).2.2.2.1) (by decide)]
  dsimp only
  rw [c4, ← shiftIn_five c.shift]
  exact writeBankSelect_commit a clear5 mapper (heeds_some fun on => (spaced on).2.2.2.2)

/-! ### The nametable mirroring -/

/-- Bits 1-0 of the configuration register of id 1 (R568). -/
theorem mirroringMode_iff (control : BitVec 5) (m : BitVec 2) :
    control.extractLsb' 0 2 = m ↔ control.toNat % 4 = m.toNat := by
  rw [← BitVec.toNat_inj]
  simp

/-- The page of a nametable for id 1 (R568, R572). -/
theorem page_shiftRegister {c : Cartridge} (mapper : c.mapper = .shiftRegister) (table : Nat) :
    c.mirroring.page table = if c.control.toNat % 4 = 0 then 0 else if c.control.toNat % 4 = 1 then 1
      else if c.control.toNat % 4 = 2 then table % 2 else table / 2 := by
  have mode0 : c.control.extractLsb' 0 2 = 0 ↔ c.control.toNat % 4 = 0 := mirroringMode_iff c.control 0
  have mode1 : c.control.extractLsb' 0 2 = 1 ↔ c.control.toNat % 4 = 1 := mirroringMode_iff c.control 1
  have mode2 : c.control.extractLsb' 0 2 = 2 ↔ c.control.toNat % 4 = 2 := mirroringMode_iff c.control 2
  simp only [Cartridge.mirroring, mapper, mode0, mode1, mode2]
  split_ifs <;> rfl

/-- The page of a nametable for the other ids (R572). -/
theorem page_header {c : Cartridge} (mapper : c.mapper ≠ .shiftRegister) (table : Nat) :
    c.mirroring.page table = if c.headerMirroring = .vertical then table % 2 else table / 2 := by
  unfold Cartridge.mirroring
  split
  · contradiction
  all_goals cases c.headerMirroring <;> rfl

theorem page_eq (c : Cartridge) (table : Nat) : c.mirroring.page table =
    if c.mapper = .shiftRegister then
      (if c.control.toNat % 4 = 0 then 0 else if c.control.toNat % 4 = 1 then 1
        else if c.control.toNat % 4 = 2 then table % 2 else table / 2)
    else if c.headerMirroring = .vertical then table % 2 else table / 2 := by
  by_cases mapper : c.mapper = .shiftRegister
  · rw [if_pos mapper, page_shiftRegister mapper]
  · rw [if_neg mapper, page_header mapper]

/-- An address of a nametable, or of its mirror, is in the nametable's page (R451, R572). -/
theorem mirrorNametableAddress_of_table (c : Cartridge) {a table offset : Nat} (hoffset : offset < 0x400)
    (place : (a - 0x2000) % 0x1000 = 0x400 * table + offset) :
    mirrorNametableAddress c a = 0x400 * c.mirroring.page table + offset := by
  have number : (0x400 * table + offset) / 0x400 = table := by omega
  have within : (0x400 * table + offset) % 0x400 = offset := by omega
  rw [mirrorNametableAddress, place, number, within]

/-- Settles O53: the nametable's page, at both places that an address of it can have. -/
theorem nametableMirroring : Obligations.NametableMirroring := by
  intro c table offset htable hoffset
  dsimp only
  rw [mirrorNametableAddress_of_table c hoffset (table := table) (by omega),
    mirrorNametableAddress_of_table c hoffset (table := table) (by omega), page_eq]
  exact ⟨rfl, rfl⟩

/-! ### The controllers -/

theorem controllerShift_getLsbD (b : Byte) {k : Nat} (hk : k < 8) :
    (controllerShift b).getLsbD k = if k < 7 then b.getLsbD (k + 1) else true := by
  interval_cases k <;> simp [controllerShift]

/-- A shift register after `n` reads: its bits from the `n`-th on, then ones (R582). -/
theorem controllerShift_iterate (b : Byte) (n : Nat) {k : Nat} (hk : k < 8) :
    (controllerShift^[n] b).getLsbD k = if n + k < 8 then b.getLsbD (n + k) else true := by
  induction n generalizing k with
  | zero => simp [hk]
  | succ n ih =>
    rw [Function.iterate_succ_apply', controllerShift_getLsbD _ hk]
    by_cases last : k < 7
    · rw [if_pos last, ih (by omega), Nat.add_right_comm, Nat.add_assoc]
    · rw [if_neg last, if_neg (by omega)]

theorem controllerRead0_iterate (s : State) (n : Nat) : (fun t => (controllerRead0 t).2)^[n] s =
    { s with pads := { s.pads with shift0 := controllerShift^[n] s.pads.shift0 } } := by
  induction n with
  | zero => rfl
  | succ n ih =>
    rw [Function.iterate_succ_apply', Function.iterate_succ_apply', ih]
    rfl

theorem controllerRead1_iterate (s : State) (n : Nat) : (fun t => (controllerRead1 t).2)^[n] s =
    { s with pads := { s.pads with shift1 := controllerShift^[n] s.pads.shift1 } } := by
  induction n with
  | zero => rfl
  | succ n ih =>
    rw [Function.iterate_succ_apply', Function.iterate_succ_apply', ih]
    rfl

theorem controllerByte_low (b : Byte) : (controllerByte b).getLsbD 0 = b.getLsbD 0 := by
  simp [controllerByte]

theorem controllerByte_high (b : Byte) : controllerByte b &&& 0xFE = Config.controllerHighBits &&& 0xFE := by
  refine BitVec.eq_of_getLsbD_eq fun i hi => ?_
  interval_cases i <;> simp [controllerByte]

/-- A strobe write with bit 0 set loads both shift registers (R581). -/
theorem strobeWrite_loads {v : Byte} (set : v.getLsbD 0 = true) (s : State) : strobeWrite v s = { s with
    pads := { s.pads with strobe := true, shift0 := s.pads.buttons0, shift1 := s.pads.buttons1 } } := by
  rw [strobeWrite, bit, if_pos set]

/-- Settles O54: the n-th read gives the low bit of the register shifted n times. -/
theorem controllerReads : Obligations.ControllerReads := by
  intro s v n set
  dsimp only
  rw [controllerRead0_iterate, controllerRead1_iterate, strobeWrite_loads set]
  refine ⟨?_, ?_, controllerByte_high _, controllerByte_high _, rfl, rfl⟩
  · exact (controllerByte_low _).trans (controllerShift_iterate s.pads.buttons0 n (by decide))
  · exact (controllerByte_low _).trans (controllerShift_iterate s.pads.buttons1 n (by decide))

end Sys2Proof.Machine
end

section
/-!
PROOFS. The sprite DMA (O55): in a calm stretch no dot moves the OAM address, and each pair of cycles copies one byte.
-/

namespace Sys2Proof.Machine

/-! ### The OAM address in a calm stretch -/

/-- Rendering is not active for the next `m` dots, the present one among them (R480). -/
def Ppu.Calm (m : Nat) (p : Ppu) : Prop :=
  p.renderingEnabled = false ∨ (240 ≤ p.scanline ∧ p.dot ≤ 340 ∧ 341 * p.scanline + p.dot + m < 341 * 261)

theorem Ppu.Calm.inactive {m : Nat} {p : Ppu} (h : p.Calm m) : p.renderingActive = false := by
  rcases h with disabled | ⟨line, -, before⟩
  · simp [Ppu.renderingActive, disabled]
  · have noFetch : p.fetchLine = false := by
      simp only [Ppu.fetchLine, Bool.or_eq_false_iff, decide_eq_false_iff_not]
      omega
    simp [Ppu.renderingActive, noFetch]

theorem Ppu.Calm.tick {m : Nat} {p : Ppu} (h : p.Calm (m + 1)) (cfg : Params) (c : Cartridge) :
    (p.tick cfg c).Calm m := by
  rcases h with disabled | ⟨line, dot, before⟩
  · exact .inl ((tick_renderingEnabled cfg c p).trans disabled)
  · obtain ⟨line', dot', position⟩ := tick_linear cfg c line (by omega) dot
    exact .inr ⟨line', dot', by omega⟩

/-- Only a rendering dot moves the OAM address (R511). -/
theorem tick_oamaddr {p : Ppu} (h : p.renderingActive = false) (cfg : Params) (c : Cartridge) :
    (p.tick cfg c).oamaddr = p.oamaddr := by
  have kept := Ppu.DotKeeps.frameDot cfg p
  have idle : (p.frameDot cfg).renderingActive = false := by
    simpa [Ppu.renderingActive, Ppu.renderingEnabled, Ppu.fetchLine, Ppu.showBg, Ppu.showSprites, kept.mask,
      kept.scanline] using h
  have dot : p.executeDot cfg c = p.frameDot cfg := by simp [Ppu.executeDot, idle, doIf]
  rw [tick_of_dot cfg c p Ppu.oamaddr (fun _ _ _ _ _ _ => rfl), dot]
  unfold Ppu.frameDot doIf
  dsimp only
  split_ifs <;> rfl

theorem tickCycle_oamaddr {n : Nat} {s : State} (calm : s.calm (n + 1) = true) :
    (tickCycle s).ppu.oamaddr = s.ppu.oamaddr := by
  have dots : s.ppu.Calm (3 * n + 1 + 1 + 1) := (calm_iff (n + 1) s).1 calm
  have dots1 := dots.tick s.cfg s.cart
  have dots2 := dots1.tick s.cfg s.cart
  rw [tickCycle_field Ppu.oamaddr (fun _ _ _ => rfl), Ppu.tick3, tick_oamaddr dots2.inactive, tick_oamaddr dots1.inactive,
    tick_oamaddr dots.inactive]

/-! ### What the DMA keeps -/

/-- What the DMA leaves as it is: the mark, the register file, CPU memory and the cartridge (R590). -/
structure DmaKeeps (s t : State) : Prop where
  refused : t.refused = s.refused
  dmaReq : t.dmaReq = s.dmaReq
  cpu : t.cpu = s.cpu
  ram : t.ram = s.ram
  cart : t.cart = s.cart
  cfg : t.cfg = s.cfg

namespace DmaKeeps

variable {s t u : State}

theorem trans (h : DmaKeeps s t) (k : DmaKeeps t u) : DmaKeeps s u :=
  ⟨k.refused.trans h.refused, k.dmaReq.trans h.dmaReq, k.cpu.trans h.cpu, k.ram.trans h.ram, k.cart.trans h.cart,
    k.cfg.trans h.cfg⟩

theorem refl (s : State) : DmaKeeps s s := ⟨rfl, rfl, rfl, rfl, rfl, rfl⟩

theorem tickCycle (s : State) : DmaKeeps s (tickCycle s) := ⟨rfl, rfl, rfl, rfl, rfl, rfl⟩

theorem byteAt (h : DmaKeeps s t) (a : Addr) : t.byteAt a = s.byteAt a := by
  simp [State.byteAt, memByte, h.ram, h.cart, h.cfg]

end DmaKeeps

/-- `n` bytes of a page, from byte `i` on, are in OAM from the OAM address on, which is behind them, and every other byte
of OAM is as it was (R590). -/
structure DmaCopied (page : Byte) (n : Nat) (i : Byte) (s t : State) : Prop where
  keeps : DmaKeeps s t
  oamaddr : t.ppu.oamaddr = s.ppu.oamaddr + BitVec.ofNat 8 n
  oam : ∀ j : Byte, readCell t.ppu.oam (s.ppu.oamaddr + j).toNat =
    if j.toNat < n then s.byteAt (word page (i + j)) else readCell s.ppu.oam (s.ppu.oamaddr + j).toNat

theorem DmaCopied.refl (page i : Byte) (s : State) : DmaCopied page 0 i s s where
  keeps := .refl s
  oamaddr := (BitVec.add_zero _).symm
  oam _ := rfl

/-- One byte, and behind it at most 255 others (R590). -/
theorem DmaCopied.cons {page i : Byte} {n : Nat} {s t u : State} (h : DmaCopied page 1 i s t)
    (k : DmaCopied page n (i + 1) t u) (hn : n ≤ 255) : DmaCopied page (n + 1) i s u where
  keeps := h.keeps.trans k.keeps
  oamaddr := by
    rw [k.oamaddr, h.oamaddr, BitVec.add_assoc, ← BitVec.ofNat_add, Nat.add_comm]
  oam j := by
    have place : s.ppu.oamaddr + j = t.ppu.oamaddr + (j - 1) := by
      rw [h.oamaddr, show BitVec.ofNat 8 1 = 1 from rfl]
      ring
    have source : i + 1 + (j - 1) = i + j := by ring
    have before : (j - 1).toNat = (255 + j.toNat) % 256 := BitVec.toNat_sub j 1
    have bytes : ((j - 1).toNat < n ∨ j.toNat < 1) ↔ j.toNat < n + 1 := by omega
    rw [place, k.oam (j - 1), ← place, source, h.keeps.byteAt, h.oam j, ← ite_or, if_congr bytes rfl rfl]

/-! ### The pairs -/

/-- A page below 0x20 is work RAM (R92). -/
theorem memByte_page {page : Byte} (ram : page.toNat < 0x20) (i : Byte) (s : State) :
    (memByte s (word page i)).isSome = true := by
  have low : (word page i).toNat ≤ 0x1FFF := by
    have := i.isLt
    rw [word_toNat]
    omega
  rw [memByte, if_pos low]
  rfl

/-- A pair of the DMA: a read of RAM and a write to OAM data (R590). -/
theorem dmaPair_eq {page : Byte} (ram : page.toNat < 0x20) (i : Byte) {s : State}
    (inactive : (tickCycle (tickCycle s)).ppu.renderingActive = false) :
    let k := tickCycle (tickCycle s)
    wr 0x2004 (rd (word page i) s).1 (rd (word page i) s).2 = { k with ppu := { k.ppu with
      oam := writeCell k.ppu.oam k.ppu.oamaddr.toNat (s.byteAt (word page i))
      oamaddr := k.ppu.oamaddr + 1
      ioLatch := s.byteAt (word page i)
      decayTimer := 7777 } } := by
  rw [rd_of_isSome (memByte_page ram i s)]
  exact ppuWrite_oamData inactive _

/-- The write of a pair, in a state that its ticks left (R590). -/
theorem DmaCopied.of_write {page i : Byte} {s k : State} (keeps : DmaKeeps s k)
    (addr : k.ppu.oamaddr = s.ppu.oamaddr) (oam : k.ppu.oam = s.ppu.oam) (latch : Byte) (timer : Nat) :
    DmaCopied page 1 i s { k with ppu := { k.ppu with
      oam := writeCell k.ppu.oam k.ppu.oamaddr.toNat (s.byteAt (word page i))
      oamaddr := k.ppu.oamaddr + 1
      ioLatch := latch
      decayTimer := timer } } where
  keeps := ⟨keeps.refused, keeps.dmaReq, keeps.cpu, keeps.ram, keeps.cart, keeps.cfg⟩
  oamaddr := congrArg (· + 1) addr
  oam j := by
    have first : (s.ppu.oamaddr + j).toNat = s.ppu.oamaddr.toNat ↔ j.toNat < 1 := by
      have := s.ppu.oamaddr.isLt
      have := j.isLt
      rw [BitVec.toNat_add]
      omega
    rw [readCell_writeCell, addr, oam, if_congr first rfl rfl]
    split_ifs with zero
    · rw [show j = 0 from BitVec.eq_of_toNat_eq (Nat.lt_one_iff.1 zero), add_zero]
    · rfl

theorem dmaPair_copied {page : Byte} (ram : page.toNat < 0x20) (i : Byte) {n : Nat} {s : State}
    (calm : s.calm (n + 2) = true) :
    let u := wr 0x2004 (rd (word page i) s).1 (rd (word page i) s).2
    DmaCopied page 1 i s u ∧ u.calm n = true := by
  obtain ⟨calm1, -⟩ := calm_tickCycle calm
  obtain ⟨calm2, inactive⟩ := calm_tickCycle calm1
  have keeps : DmaKeeps s (tickCycle (tickCycle s)) := (DmaKeeps.tickCycle s).trans (.tickCycle _)
  have addr : (tickCycle (tickCycle s)).ppu.oamaddr = s.ppu.oamaddr :=
    (tickCycle_oamaddr calm1).trans (tickCycle_oamaddr calm)
  dsimp only
  rw [dmaPair_eq ram i inactive]
  refine ⟨.of_write keeps addr (by simp) _ _, ?_⟩
  exact (calm_congr (s := tickCycle (tickCycle s)) n rfl rfl rfl).trans calm2

/-- The pairs copy the bytes of the page one after the other (R590). -/
theorem dmaCopy_copied {page : Byte} (ram : page.toNat < 0x20) {n : Nat} (hn : n ≤ 256) (i : Byte) {s : State}
    (calm : s.calm (2 * n) = true) : DmaCopied page n i s (dmaCopy page n i s) := by
  induction n generalizing i s with
  | zero => exact .refl page i s
  | succ n ih =>
    obtain ⟨copied, rest⟩ := dmaPair_copied ram i calm
    exact copied.cons (ih (by omega) (i + 1) rest) (by omega)

/-! ### The transfer -/

/-- The halt cycle, with the alignment cycle behind it when the count is odd (R590). -/
theorem dmaHalt {s : State} (calm : s.calm 514 = true) :
    let t := doIf (dmaOdd s) tickCycle (tickCycle s)
    DmaKeeps s t ∧ t.ppu.oamaddr = s.ppu.oamaddr ∧ t.calm 512 = true := by
  obtain ⟨calm1, -⟩ := calm_tickCycle calm
  obtain ⟨calm2, -⟩ := calm_tickCycle calm1
  cases odd : dmaOdd s
  · exact ⟨.tickCycle s, tickCycle_oamaddr calm, calm_mono (by decide) calm1⟩
  · exact ⟨(DmaKeeps.tickCycle s).trans (.tickCycle _), (tickCycle_oamaddr calm1).trans (tickCycle_oamaddr calm), calm2⟩

/-- Settles O55: the halt keeps everything the DMA needs, and 256 pairs fill OAM. -/
theorem spriteDma : Obligations.SpriteDma := by
  intro s page ram unmarked calm
  obtain ⟨halt, haltAddr, calm512⟩ := dmaHalt (s := { s with dmaReq := none }) calm
  have copied := dmaCopy_copied ram (n := 256) (le_refl _) 0 calm512
  have kept := halt.trans copied.keeps
  refine ⟨kept.refused.trans unmarked, kept.dmaReq, kept.cpu, kept.ram, kept.cart, ?address, ?cycles, fun i => ?byte⟩
  case address => exact copied.oamaddr.trans ((BitVec.add_zero _).trans haltAddr)
  case cycles =>
    obtain ⟨total, -⟩ := oamDma_apart page s
    simpa [dmaOdd] using total
  case byte =>
    have bytes := copied.oam i
    rw [haltAddr, if_pos i.isLt, halt.byteAt, zero_add] at bytes
    exact bytes

end Sys2Proof.Machine
end
